-- ==== Sys2Proof/Word.lean ====
section
/-! DEFINITION. The widths of the block's words (spec/00_scope.md R9). -/

namespace Sys2Proof

/-- `u8`: one byte of the tuning word, a frame's tag or its data field. -/
abbrev Byte := BitVec 8

/-- `u16`: a serial frame, a tick budget, the accumulator's bits. -/
abbrev Half := BitVec 16

/-- 32 bits: a frequency (`s32`) or a tuning word (`u32`). -/
abbrev Word := BitVec 32

end Sys2Proof
end

