-- ==== Sys2Proof/Config.lean ====
section
/-! DEFINITION. The configuration record of spec/00_scope.md R7, its normative constants, the spec's
example instance, and the free values of spec/93_implementation_defined.md I3 and I14. -/

namespace Sys2Proof

/-- The `OPEN` parameters of spec/00_scope.md R7. They are fixed for a model instance; a claim that holds for every
state holds for every value of them, because the state carries the record (log entry 4). -/
structure Config where
  /-- `REF_CLK_HZ`. -/
  refClkHz : Nat
  /-- `IF_HZ`. -/
  ifHz : Nat
  /-- `TAG[0]`: 8-bit-mode write, low half. -/
  tag0 : Byte
  /-- `TAG[1]`: 16-bit-mode write, low half. -/
  tag1 : Byte
  /-- `TAG[2]`: 8-bit-mode write, high half. -/
  tag2 : Byte
  /-- `TAG[3]`: 16-bit-mode write, high half. -/
  tag3 : Byte
  /-- `CMD_SRC`: the sleep+reset+clear command word. -/
  cmdSrc : Half
  /-- `CMD_CTRL`: the plain control command word. -/
  cmdCtrl : Half
  /-- `T_SETTLE`, a duration; no rule reads it (R233). -/
  tSettle : Nat
  /-- `T_BIT`, a duration; no rule reads it (R233). -/
  tBit : Nat
  deriving DecidableEq, Repr

/-- `F_MIN` in Hz (R7, normative). -/
def Config.fMin : Int := 100000

/-- `F_MAX` in Hz (R7, normative). -/
def Config.fMax : Int := 20000000

/-- `BAND_THRESHOLD` in Hz (R7, normative). -/
def Config.bandThreshold : Int := 10000000

/-- `INIT_WORD` (R7, normative). -/
def Config.initWord : Word := 1

/-- `TICK_PERIOD`, one decisecond, in milliseconds (R7; decision D19); no rule reads it (R233). -/
def Config.tickPeriodMs : Nat := 100

/-- The example instance `P_EX` of spec/95_test_vectors.md with the default tags and command words of R7.
DESIGN CHOICE (log entry 4): the spec says that it "is not a claim about the real board"; only `State.reset` and the
table's words are read under it. The two durations have no value in the spec. -/
def Config.pEx : Config :=
  { refClkHz := 50000000, ifHz := 9000000
    tag0 := 0x30, tag1 := 0x21, tag2 := 0x32, tag3 := 0x23
    cmdSrc := 0xF800, cmdCtrl := 0xC000
    tSettle := 0, tBit := 0 }

/-- The free value of the chip reader's `STAGE`, one for each draw (spec/93_implementation_defined.md I3, I14;
log entry 10). It has no body: no proof can see it. -/
opaque Config.freeStage : Nat → Byte

/-- The free value of the chip reader's `FREQ`, one for each draw (spec/93_implementation_defined.md I3, I14;
log entry 10). It has no body: no proof can see it. -/
opaque Config.freeFreq : Nat → Word

end Sys2Proof
end

