-- ==== Sys2Proof/Syntax.lean ====
section
/-! DEFINITION. The instructions: one constructor for each row of spec/opcode_table.json
(spec/30_encoding.md R61, R62, R64, R65, R69). -/

namespace Sys2Proof

/-- The eight host operations with their operands as R62 reads them, the two rows of reserved operation codes,
and the six serial frame kinds as the chip reader of R168 takes them. -/
inductive Instr where
  /-- `ENC_POLL` (R103). -/
  | encPoll
  /-- `BTN_CLASSIFY`, `budget` in ticks (R121). -/
  | btnClassify (budget : Half)
  /-- `FM_VFO`, `f` an `s32` in Hz, `usb` true for the upper sideband (R145, R67). -/
  | fmVfo (f : Word) (usb : Bool)
  /-- `FM_TWORD`, `v` an `s32` in Hz (R146). -/
  | fmTword (v : Word)
  /-- `SER_XFER16` (R162). -/
  | serXfer16 (frame : Half)
  /-- `DDS_WRITE_TW` (R163). -/
  | ddsWriteTw (word : Word)
  /-- `DDS_INIT` (R166). -/
  | ddsInit
  /-- `TUNE_SETFREQ`, `f` an `s32` in Hz, `usb` true for the upper sideband (R181, R67). -/
  | tuneSetfreq (f : Word) (usb : Bool)
  /-- `RESERVED_OP`, the code 0x0 (R69). -/
  | reservedOpZero
  /-- `RESERVED_OP`, one of the codes 0x9 to 0xF (R69). -/
  | reservedOpHigh (code : BitVec 4)
  /-- `FRAME_DEFER8_LOW`: tag `TAG[0]`, data byte `d` (R64). -/
  | frameDefer8Low (d : Byte)
  /-- `FRAME_WRITE16_LOW`: tag `TAG[1]`, data byte `d` (R64). -/
  | frameWrite16Low (d : Byte)
  /-- `FRAME_DEFER8_HIGH`: tag `TAG[2]`, data byte `d` (R64). -/
  | frameDefer8High (d : Byte)
  /-- `FRAME_WRITE16_HIGH`: tag `TAG[3]`, data byte `d` (R64). -/
  | frameWrite16High (d : Byte)
  /-- `FRAME_CMD_SRC` (R65). -/
  | frameCmdSrc
  /-- `FRAME_CMD_CTRL` (R65). -/
  | frameCmdCtrl
  deriving DecidableEq, Repr

end Sys2Proof
end

