-- ==== Sys2Proof/Decode.lean ====
section
/-! DEFINITION. Decoding of host operations and of serial frames, and their encoding
(spec/30_encoding.md R60 to R65, R69; spec/43_dds_serializer.md R168). -/

namespace Sys2Proof

/-- A host operation as the host issues it: the code and the two operand registers' contents (R60). -/
structure HostWord where
  op : BitVec 4
  opa : Word
  opb : Half
  deriving DecidableEq, Repr

/-- An encoded instruction: a host operation, or a 16-bit frame on the serial bus (30_encoding.md, opening). -/
inductive Encoded where
  | host (w : HostWord)
  | frame (f : Half)
  deriving DecidableEq, Repr

/-- Why a word is no instruction. -/
inductive DecodeError where
  /-- A must-be-zero operand bit is 1 (R62, R69). -/
  | reservedOperandBits
  /-- The frame is none of the six kinds of the table (R168 "any other frame"). -/
  | otherFrame
  deriving DecidableEq, Repr

/-- The sideband flag of `OPB[0]`: 1 is the upper sideband (R62, R67). -/
def usbOf (opb : Half) : Bool := opb.getLsbD 0

/-- `OPB[15:1]` is 0 (R62). -/
def opbReservedZero (opb : Half) : Bool := opb.extractLsb' 1 15 == 0

/-- `OPA[31:16]` is 0 (R62). -/
def opaHighZero (opa : Word) : Bool := opa.extractLsb' 16 16 == 0

/-- Decoding of a host operation (R61, R62). Unused operands are ignored whatever they hold; the reserved codes are
instructions of their own, which are refused when they run (R69). -/
def decodeHost (w : HostWord) : Except DecodeError Instr :=
  match w.op.toNat with
  | 0 => .ok .reservedOpZero
  | 1 => .ok .encPoll
  | 2 => .ok (.btnClassify w.opb)
  | 3 => if opbReservedZero w.opb then .ok (.fmVfo w.opa (usbOf w.opb)) else .error .reservedOperandBits
  | 4 => .ok (.fmTword w.opa)
  | 5 => if opaHighZero w.opa then .ok (.serXfer16 (w.opa.extractLsb' 0 16)) else .error .reservedOperandBits
  | 6 => .ok (.ddsWriteTw w.opa)
  | 7 => .ok .ddsInit
  | 8 => if opbReservedZero w.opb then .ok (.tuneSetfreq w.opa (usbOf w.opb)) else .error .reservedOperandBits
  | _ => .ok (.reservedOpHigh w.op)

/-- `frame[15:8]`, the tag (R63). -/
def frameTag (f : Half) : Byte := f.extractLsb' 8 8

/-- `frame[7:0]`, the data byte (R63). -/
def frameData (f : Half) : Byte := f.extractLsb' 0 8

/-- Decoding of a serial frame as the chip reader takes it (R168). The tags are looked at first, in the order of R64,
then the two command words, `CMD_SRC` before `CMD_CTRL`: DESIGN CHOICE, it matters only where two of them agree
(log entry 6). -/
def decodeFrame (c : Config) (f : Half) : Except DecodeError Instr :=
  if frameTag f = c.tag0 then .ok (.frameDefer8Low (frameData f))
  else if frameTag f = c.tag1 then .ok (.frameWrite16Low (frameData f))
  else if frameTag f = c.tag2 then .ok (.frameDefer8High (frameData f))
  else if frameTag f = c.tag3 then .ok (.frameWrite16High (frameData f))
  else if f = c.cmdSrc then .ok .frameCmdSrc
  else if f = c.cmdCtrl then .ok .frameCmdCtrl
  else .error .otherFrame

/-- Decoding of either kind of word. -/
def decode (c : Config) : Encoded → Except DecodeError Instr
  | .host w => decodeHost w
  | .frame f => decodeFrame c f

/-- A frame is its tag above its data byte (R63). -/
def tagged (tag d : Byte) : Half := tag ++ d

/-- `USB` is `OPB = 1` and `LSB` is `OPB = 0` (R67, R72). -/
def opbOfUsb (usb : Bool) : Half := if usb then 1 else 0

/-- The word of an instruction, from the same tables (R61 to R65). Unused operands are written as 0, the operands of the
reserved codes among them (log entry 28, DESIGN CHOICE). -/
def encode (c : Config) : Instr → Encoded
  | .encPoll => .host ⟨1, 0, 0⟩
  | .btnClassify budget => .host ⟨2, 0, budget⟩
  | .fmVfo f usb => .host ⟨3, f, opbOfUsb usb⟩
  | .fmTword v => .host ⟨4, v, 0⟩
  | .serXfer16 frame => .host ⟨5, frame.zeroExtend 32, 0⟩
  | .ddsWriteTw word => .host ⟨6, word, 0⟩
  | .ddsInit => .host ⟨7, 0, 0⟩
  | .tuneSetfreq f usb => .host ⟨8, f, opbOfUsb usb⟩
  | .reservedOpZero => .host ⟨0, 0, 0⟩
  | .reservedOpHigh code => .host ⟨code, 0, 0⟩
  | .frameDefer8Low d => .frame (tagged c.tag0 d)
  | .frameWrite16Low d => .frame (tagged c.tag1 d)
  | .frameDefer8High d => .frame (tagged c.tag2 d)
  | .frameWrite16High d => .frame (tagged c.tag3 d)
  | .frameCmdSrc => .frame c.cmdSrc
  | .frameCmdCtrl => .frame c.cmdCtrl

/-- The configurations under which every frame kind has one meaning: four different tags, no command word that carries
a tag, two different command words. R165 asks for the tags' modes and halves; the spec asks nothing of the command
words (log entries 5, 6). -/
def framesApart (c : Config) : Bool :=
  decide (c.tag0 ≠ c.tag1) && decide (c.tag0 ≠ c.tag2) && decide (c.tag0 ≠ c.tag3)
    && decide (c.tag1 ≠ c.tag2) && decide (c.tag1 ≠ c.tag3) && decide (c.tag2 ≠ c.tag3)
    && decide (frameTag c.cmdSrc ≠ c.tag0) && decide (frameTag c.cmdSrc ≠ c.tag1)
    && decide (frameTag c.cmdSrc ≠ c.tag2) && decide (frameTag c.cmdSrc ≠ c.tag3)
    && decide (frameTag c.cmdCtrl ≠ c.tag0) && decide (frameTag c.cmdCtrl ≠ c.tag1)
    && decide (frameTag c.cmdCtrl ≠ c.tag2) && decide (frameTag c.cmdCtrl ≠ c.tag3)
    && decide (c.cmdSrc ≠ c.cmdCtrl)

/-- A host operation as one number: `OP` in bits 3 to 0, as spec/opcode_table.json numbers it, then `OPA` in bits
35 to 4 and `OPB` in bits 51 to 36. The spec gives no places to the operand registers: DESIGN CHOICE (log entry 16). -/
def hostWordOfNat (w : Nat) : HostWord :=
  { op := BitVec.ofNat 4 w, opa := BitVec.ofNat 32 (w / 16), opb := BitVec.ofNat 16 (w / 2 ^ 36) }

/-- The instruction of a row of spec/opcode_table.json: a 16-bit row is a serial frame under the table's default tags
and command words, every other row is a host operation (log entries 16, 17). -/
def decodeTableWord (nbits w : Nat) : Option Instr :=
  if nbits = 16 then (decodeFrame Config.pEx (BitVec.ofNat 16 w)).toOption
  else (decodeHost (hostWordOfNat w)).toOption

end Sys2Proof
end

