-- ==== Sys2Proof/Machine/Configuration.lean ====
section
/-! DEFINITION. The constraints that a configuration must meet (spec/00_scope.md R8). -/

namespace Sys2Proof.Machine

/-- The constraints of R8: the ranges of `REF_CLK_HZ` and `IF_HZ`, and that no tag of the low half's pair is a tag of
the high half's pair, since a tag addresses one half (DEDUCED, log entry 5). -/
def configOk (c : Config) : Bool :=
  decide (2 ≤ c.refClkHz) && decide (c.refClkHz ≤ 2 ^ 32) && decide (c.ifHz ≤ 79999999)
    && decide (c.tag0 ≠ c.tag2) && decide (c.tag0 ≠ c.tag3)
    && decide (c.tag1 ≠ c.tag2) && decide (c.tag1 ≠ c.tag3)

end Sys2Proof.Machine
end

