-- ==== Sys2Proof/Machine/State.lean ====
section
/-! DEFINITION. The machine's state: the tuple of spec/10_state.md R20, the chip reader of
spec/43_dds_serializer.md R168, and the model's own fields; and the state after reset (R39, R220). -/

namespace Sys2Proof.Machine

/-- The fault reasons of spec/60_exceptions.md R203 and R204. A fault is a mark in `State.fault` and the machine goes
on (R201, R202): no step answers the interface's `fault` with one of them (log entry 11). Safe: a claim about a run
takes an empty mark as its premise. -/
inductive Fault where
  /-- Raised by a read of `RES` while `RES_VALID = 0` (R203). Safe: no value is given. -/
  | resultNotValid
  /-- Raised by DDS_WRITE_TW and TUNE_SETFREQ when they start while `DDS_READY = 0` (R204). Safe: the frames are still
  sent. -/
  | ddsNotInitialised
  deriving DecidableEq, Repr

/-- Why an operation is refused (spec/60_exceptions.md R205). -/
inductive Refusal where
  /-- Raised by the meanings of the reserved operation codes (R69, R205). Safe: the operation has no step. The step
  records it in `State.refusals` (log entry 12). -/
  | reservedOp
  /-- A must-be-zero operand bit is 1 (R62, R69, R205); found by the decoder and recorded in `State.refusals`. Safe. -/
  | reservedOperandBits
  /-- The configuration breaks R8: the whole model is refused before reset (R205). `boot` answers it and gives no state;
  a state with such a configuration carries it in its refusal mark, and every step from it is refused. Safe. -/
  | badConfiguration
  /-- Raised by the meaning of a host operation asked to start while `OPSTATE` is not `IDLE` (R103 "refused if issued
  while OPSTATE ≠ IDLE"). The step never asks: the host is held (R206; log entry 2). Safe. -/
  | busy
  /-- An instruction without a meaning yet; no instruction is left without one. Safe. -/
  | notModelled (mnemonic : String)
  deriving DecidableEq, Repr

/-- `FAULT`: a set of fault reasons, one Bool for each (R35). -/
structure FaultMark where
  resultNotValid : Bool
  ddsNotInitialised : Bool
  deriving DecidableEq, Repr

/-- The refusal mark of R205 and R220: a set of the reasons of R205, one Bool for each. -/
structure RefusalMark where
  reservedOp : Bool
  reservedOperandBits : Bool
  badConfiguration : Bool
  deriving DecidableEq, Repr

/-- The output pins, as `TRACE` names them (R28, R29, R33). -/
inductive Pin where
  | fsyncN
  | sclk
  | sdata
  | relay
  deriving DecidableEq, Repr

/-- A pin event `(pin, level)` of `TRACE` (R33). -/
abbrev PinEvent := Pin × Bool

/-- `BSTATE` (R31). -/
inductive BState where
  | bIdle
  | bWait
  | bSettle
  deriving DecidableEq, Repr

/-- A frame sequence in progress, with the values its pseudocode holds (R162, R163, R166, R181; log entry 22). -/
inductive Transfer where
  /-- SER_XFER16 of one frame. -/
  | raw (frame : Half)
  /-- DDS_WRITE_TW of a word. -/
  | write (word : Word)
  /-- DDS_INIT. -/
  | init
  /-- TUNE_SETFREQ: the applied frequency `a` and the tuning word `w`. -/
  | tune (applied : Word) (word : Word)
  deriving DecidableEq, Repr

/-- The next atomic step of a frame sequence; `k` counts the frames of the sequence from 0 (R161). -/
inductive Phase where
  /-- Step F0 of frame `k` is next: no frame is in progress. -/
  | gap (k : Nat)
  /-- `SDATA` for bit `i` of frame `k` is next. -/
  | data (k : Nat) (i : BitVec 4)
  /-- `SCLK` low for bit `BITIDX` is next. -/
  | clkLow (k : Nat)
  /-- `SCLK` high for bit `BITIDX` is next. -/
  | clkHigh (k : Nat)
  /-- Step F_END of frame `k` is next. -/
  | fEnd (k : Nat)
  deriving DecidableEq, Repr

/-- `OPSTATE`: `IDLE`, or `BUSY(op, phase)` (R30). The phases of BTN_CLASSIFY are `BSTATE`'s (R31). -/
inductive OpState where
  | idle
  /-- `BUSY(BTN_CLASSIFY, BSTATE)`. -/
  | classifying
  /-- `BUSY` with a frame sequence. -/
  | sending (t : Transfer) (p : Phase)
  /-- `BUSY(TUNE_SETFREQ)`, its final step next: the band relay (R181). -/
  | relaying (applied : Word)
  deriving DecidableEq, Repr

/-- One move of one agent (spec/60_exceptions.md R210, R211, R215; R220, R222; log entry 1). -/
inductive Move where
  /-- The host issues an operation. -/
  | host (w : HostWord)
  /-- The host reads `RES` (R203, R215). -/
  | readRes
  /-- The environment sets a subset of `ENC_A`, `ENC_B`, `BTN_N` (R211). -/
  | env (a b n : Option Bool)
  /-- The tick timer: TICK or SETTLE_DONE (R123, R124, R211). -/
  | timer
  /-- The block's own next frame step (R161, R232). -/
  | block
  /-- Reset arrives (R220, R222). -/
  | reset
  deriving DecidableEq, Repr

/-- The state. The fields down to `refusals` are the spec's; `stage` and `freq` are the chip reader's of R168;
the rest is the model's own (INVENTORY.md, '## State'). -/
structure State where
  /-- `ACC` (R22). -/
  acc : Half
  /-- `IMASK` (R23). -/
  imask : Bool
  /-- `IMASK_SAVED` (R24). -/
  imaskSaved : Bool
  /-- `PEND` (R25). -/
  pend : Bool
  /-- `ENC_A_LAST` (R26). -/
  encALast : Bool
  /-- `FSYNC_N` (R28). -/
  fsyncN : Bool
  /-- `SCLK` (R28). -/
  sclk : Bool
  /-- `SDATA` (R28). -/
  sdata : Bool
  /-- `RELAY` (R29). -/
  relay : Bool
  /-- `OP` (R30). -/
  op : BitVec 4
  /-- `OPA` (R30). -/
  opa : Word
  /-- `OPB` (R30). -/
  opb : Half
  /-- `RES` (R30). -/
  res : Word
  /-- `RES_VALID` (R30). -/
  resValid : Bool
  /-- `OPSTATE` (R30). -/
  opstate : OpState
  /-- `BSTATE` (R31). -/
  bstate : BState
  /-- `REM` (R31). -/
  rem : Half
  /-- `SHIFT` (R32). -/
  shift : Half
  /-- `BITIDX` (R32). -/
  bitidx : BitVec 4
  /-- `FRAME` (R32). -/
  frame : BitVec 2
  /-- `TRACE` (R33), oldest event first. -/
  trace : List PinEvent
  /-- `DDS_READY` (R34). -/
  ddsReady : Bool
  /-- `FAULT` (R35, R202). -/
  fault : FaultMark
  /-- The refusal mark (R205, R220). -/
  refusals : RefusalMark
  /-- The values of `RES` the host has read, oldest first (R234). -/
  reads : List Word
  /-- The chip reader's `STAGE` (R168). -/
  stage : Byte
  /-- The chip reader's `FREQ` (R168). -/
  freq : Word
  /-- The bits the chip reader has recorded in the current frame (R167). -/
  rx : Half
  /-- How many free values have been drawn (log entry 10). -/
  draws : Nat
  /-- The level of the input pin `ENC_A` (R27). -/
  encA : Bool
  /-- The level of the input pin `ENC_B` (R27). -/
  encB : Bool
  /-- The level of the input pin `BTN_N`, 0 when pressed (R27). -/
  btnN : Bool
  /-- The configuration of this model instance (R7, R20). -/
  cfg : Config
  /-- What the agents do next, the next move first (log entry 1). -/
  agenda : List Move
  deriving DecidableEq, Repr

/-- Reset (R220) with the reset values of R39, for a configuration, the input levels at reset, the number of the free
value that the chip's unknown registers take (R221), and the moves that follow. A register that R39 leaves unspecified
is 0 (log entry 7). The refusal mark is empty, but for a configuration that breaks R8: the whole model was refused before
reset (R205), and the mark is kept for the whole run (log entry 12). -/
def State.resetOf (c : Config) (a b n : Bool) (draw : Nat) (moves : List Move) : State :=
  { acc := 0, imask := false, imaskSaved := false, pend := false, encALast := a
    fsyncN := true, sclk := true, sdata := false, relay := false
    op := 0, opa := 0, opb := 0, res := 0, resValid := false
    opstate := .idle, bstate := .bIdle, rem := 0
    shift := 0, bitidx := 0, frame := 0
    trace := [], ddsReady := false
    fault := { resultNotValid := false, ddsNotInitialised := false }
    refusals := { reservedOp := false, reservedOperandBits := false, badConfiguration := !configOk c }
    reads := []
    stage := Config.freeStage draw, freq := Config.freeFreq draw, rx := 0, draws := draw + 1
    encA := a, encB := b, btnN := n
    cfg := c, agenda := moves }

/-- The machine right after reset: the example instance (log entry 4), `ENC_A = 0`, `ENC_B = 0`, `BTN_N = 1`
(log entry 8), and no move to come. -/
def State.reset : State := State.resetOf Config.pEx false false true 0 []

end Sys2Proof.Machine
end

