-- ==== Sys2Proof/Machine/Operands.lean ====
section
/-! DEFINITION. Readings of operands and results as numbers, and the wrapping writes of spec/00_scope.md R9 and R10;
the constraints a configuration must meet (R8). -/

namespace Sys2Proof.Machine

/-- `swrap32(x)`, as the 32 bits that hold it (R9). -/
def swrap32 (x : Int) : Word := BitVec.ofInt 32 x

/-- `wrap32(x)` (R9). -/
def wrap32 (x : Int) : Word := BitVec.ofInt 32 x

/-- `swrap16(x)`, as the 16 bits that hold it (R9). -/
def swrap16 (x : Int) : Half := BitVec.ofInt 16 x

/-- A 32-bit word read as `s32` (R62). -/
def asS32 (w : Word) : Int := w.toInt

/-- The accumulator read as `s16` (R22). -/
def asS16 (h : Half) : Int := h.toInt

/-- `sext_32` of the accumulator (R68). -/
def sext32 (h : Half) : Word := h.signExtend 32

/-- `tdiv(a, b)`: division truncated toward zero (R10). -/
def tdiv (a b : Int) : Int := a.tdiv b

/-- `tmod(a, b) = a - b·tdiv(a, b)`: it takes the sign of `a` (R10). -/
def tmod (a b : Int) : Int := a.tmod b

end Sys2Proof.Machine
end

