-- ==== Sys2Proof/Machine/Flags.lean ====
section
/-! DEFINITION. The block has no condition codes (spec/10_state.md R37). This file holds its status: `RES` with
`RES_VALID`, the classifier's result codes, the `FAULT` mark and the refusal mark. -/

namespace Sys2Proof.Machine

/-- `RES_VALID <- 0`, the first line of every host operation (R30). -/
def State.beginOp (s : State) : State :=
  { s with resValid := false }

/-- `RES <- r; RES_VALID <- 1; OPSTATE <- IDLE`: an operation that returns a value completes (R68). -/
def State.finishWith (r : Word) (s : State) : State :=
  { s with res := r, resValid := true, opstate := .idle }

/-- `OPSTATE <- IDLE`: an operation without a result completes; `RES` is unchanged and `RES_VALID` stays 0 (R68). -/
def State.finishSilent (s : State) : State :=
  { s with opstate := .idle }

/-- The four results of the classifier (R66, R120). -/
inductive Gesture where
  | notPressed
  | shortPress
  | longPress
  | interruptedByEncoder
  deriving DecidableEq, Repr

/-- The 2-bit result codes (R66). -/
def gestureCode : Gesture → BitVec 2
  | .notPressed => 0
  | .shortPress => 1
  | .longPress => 2
  | .interruptedByEncoder => 3

/-- `FAULT <- FAULT ∪ {reason}` (R202). -/
def State.raiseFault (r : Fault) (s : State) : State :=
  match r with
  | .resultNotValid => { s with fault := { s.fault with resultNotValid := true } }
  | .ddsNotInitialised => { s with fault := { s.fault with ddsNotInitialised := true } }

/-- Whether a reason is in `FAULT` (R35). -/
def FaultMark.has (m : FaultMark) : Fault → Bool
  | .resultNotValid => m.resultNotValid
  | .ddsNotInitialised => m.ddsNotInitialised

/-- `DdsNotInitialised` is raised when a tuning write starts while `DDS_READY = 0` (R204). -/
def State.checkReady (s : State) : State :=
  if s.ddsReady then s else s.raiseFault .ddsNotInitialised

/-- The refusal mark gains `ReservedOp` (R205). -/
def State.recordReservedOp (s : State) : State :=
  { s with refusals := { s.refusals with reservedOp := true } }

/-- The refusal mark gains `ReservedOperandBits` (R205). -/
def State.recordReservedBits (s : State) : State :=
  { s with refusals := { s.refusals with reservedOperandBits := true } }

end Sys2Proof.Machine
end

