-- ==== Sys2Proof/Machine/Ops.lean ====
section
/-! DEFINITION. The shared operations: driving a pin, the encoder interrupt (the block's only exception-like event,
spec/60_exceptions.md R207 to R209), the interrupt mask, reset, the read of `RES`, and the busy guard. -/

namespace Sys2Proof.Machine

/-- What a machine step or an instruction answers. -/
abbrev Result := Host.Outcome State Fault Refusal

/-- A host operation starts only when `OPSTATE = IDLE` (R206; R103 "refused if issued while OPSTATE ≠ IDLE"). -/
def whenIdle (s : State) (start : State → State) : Result :=
  match s.opstate with
  | .idle => .next (start s)
  | .classifying => .refused .busy
  | .sending _ _ => .refused .busy
  | .relaying _ => .refused .busy

/-- `TRACE` gains one event (R33). -/
def State.logPin (p : Pin) (b : Bool) (s : State) : State :=
  { s with trace := s.trace ++ [(p, b)] }

/-- What the chip reader has recorded after `SCLK` is driven to `b`: at a 0 to 1 transition while `FSYNC_N = 0` it
records `SDATA`, the first bit ending as the most significant (R167). -/
def rxAfterClock (s : State) (b : Bool) : Half :=
  if b && !s.sclk && !s.fsyncN then (s.rx <<< 1) ||| (BitVec.ofBool s.sdata).zeroExtend 16 else s.rx

/-- `pin P <- b` (R11): the level, the trace event, and what the chip reader sees of it (R167): a falling `FSYNC_N`
starts an empty frame, a rising `SCLK` records a bit. -/
def State.drive (p : Pin) (b : Bool) (s : State) : State :=
  match p with
  | .fsyncN => { s.logPin p b with fsyncN := b, rx := if s.fsyncN && !b then 0 else s.rx }
  | .sclk => { s.logPin p b with sclk := b, rx := rxAfterClock s b }
  | .sdata => { s.logPin p b with sdata := b }
  | .relay => { s.logPin p b with relay := b }

/-- The edge handler (R100, R101): the level of `ENC_B` gives the direction, high decrements and low increments,
wrapping to `s16`. It is the whole of interrupt entry and return (R209). -/
def State.applyEdge (s : State) : State :=
  { s with acc := if s.encB then swrap16 (asS16 s.acc - 1) else swrap16 (asS16 s.acc + 1) }

/-- EDGE_SERVICE (R102). -/
def State.edgeService (s : State) : State :=
  if s.pend && !s.imask then { s.applyEdge with pend := false } else s

/-- `IMASK <- m`, with EDGE_SERVICE appended (R102 "appended to any step that writes IMASK"). -/
def State.setImask (m : Bool) (s : State) : State :=
  State.edgeService { s with imask := m }

/-- An edge is taken at once while the mask is 0; while it is 1 it is latched, one deep (R101). -/
def State.takeEdge (s : State) : State :=
  if s.imask then { s with pend := true } else s.applyEdge

/-- The levels after an environment step that sets a subset of the input pins (R211). -/
def State.setInputs (a b n : Option Bool) (s : State) : State :=
  { s with encA := a.getD s.encA, encB := b.getD s.encB, btnN := n.getD s.btnN }

/-- `ENC_A_LAST <- ENC_A`, the last line of an environment step (R101). -/
def State.noteEncA (s : State) : State :=
  { s with encALast := s.encA }

/-- An environment step (R101, R211). `ENC_B` is sampled after the step has set the pins (DEDUCED, log entry 14). -/
def State.envStep (a b n : Option Bool) (s : State) : State :=
  let s' := s.setInputs a b n
  (if !s'.encALast && s'.encA then s'.takeEdge else s').noteEncA

/-- The host reads `RES` (R203, R215): the value joins the run's observation (R234), or the fault is marked and no
value is given. -/
def State.readRes (s : State) : State :=
  if s.resValid then { s with reads := s.reads ++ [s.res] } else s.raiseFault .resultNotValid

/-- Reset (R220, R222): every element takes its reset value; the input pins, the configuration and the moves still to
come are not the block's and stay; the chip's registers become unknown (R221). -/
def State.resetNow (s : State) : State :=
  State.resetOf s.cfg s.encA s.encB s.btnN s.draws s.agenda

/-- The host writes the operation registers when it issues an operation (R30). -/
def State.latch (w : HostWord) (s : State) : State :=
  { s with op := w.op, opa := w.opa, opb := w.opb }

/-- The state with its next move taken from the agenda (log entry 1). -/
def State.withAgenda (moves : List Move) (s : State) : State :=
  { s with agenda := moves }

end Sys2Proof.Machine
end

