-- ==== Sys2Proof/Machine/Button.lean ====
section
/-! DEFINITION. The button classifier (spec/41_button_classifier.md R121 to R124). -/

namespace Sys2Proof.Machine

/-- `finish(c)` (R121). -/
def State.finishGesture (g : Gesture) (s : State) : State :=
  State.finishWith ((gestureCode g).zeroExtend 32) { s with bstate := .bIdle }

/-- `evaluate()` (R121): one sample; release is tested first, then `ACC ≠ 0`, then `REM = 0`. -/
def State.evaluate (s : State) : State :=
  if s.btnN then { s with bstate := .bSettle }
  else if s.acc ≠ 0 then s.finishGesture .interruptedByEncoder
  else if s.rem = 0 then s.finishGesture .longPress
  else s

/-- `REM <- budget; BSTATE <- B_WAIT`, with `OPSTATE` busy (R121, R30). -/
def State.startWait (budget : Half) (s : State) : State :=
  { s with rem := budget, bstate := .bWait, opstate := .classifying }

/-- The start step of BTN_CLASSIFY (R121). -/
def State.classify (budget : Half) (s : State) : State :=
  if s.btnN then s.beginOp.finishGesture .notPressed
  else (s.beginOp.startWait budget).evaluate

/-- BTN_CLASSIFY (R121). -/
def execBtnClassify (budget : Half) (s : State) : Result :=
  whenIdle s (State.classify budget)

/-- `REM <- REM - 1` (R123). -/
def State.countDown (s : State) : State :=
  { s with rem := s.rem - 1 }

/-- A step of the tick timer: TICK while `BSTATE = B_WAIT` (R123), SETTLE_DONE while `BSTATE = B_SETTLE` (R124);
otherwise the timer has no step (R211) and the state is as it was (log entry 15). -/
def State.timerStep (s : State) : State :=
  match s.bstate with
  | .bIdle => s
  | .bWait => s.countDown.evaluate
  | .bSettle => s.finishGesture .shortPress

end Sys2Proof.Machine
end

