-- ==== Sys2Proof/Machine/Chip.lean ====
section
/-! DEFINITION. What the chip reader of spec/43_dds_serializer.md R168 does on each frame kind of
spec/opcode_table.json; and the reserved operation codes (spec/30_encoding.md R69). -/

namespace Sys2Proof.Machine

/-- The two 16-bit halves of the chip's frequency register (R51, R168). -/
inductive FreqHalf where
  | low
  | high
  deriving DecidableEq, Repr

/-- An 8-bit-mode frame: `STAGE <- d` (R168). -/
def State.stageByte (d : Byte) (s : State) : State :=
  { s with stage := d }

/-- `FREQ` with one half replaced by `d ∥ STAGE` (R168). -/
def committed (h : FreqHalf) (d stage : Byte) (freq : Word) : Word :=
  match h with
  | .low => freq.extractLsb' 16 16 ++ (d ++ stage)
  | .high => (d ++ stage) ++ freq.extractLsb' 0 16

/-- A 16-bit-mode frame for half `h`: `FREQ[16h+15 : 16h] <- d ∥ STAGE` (R168). -/
def State.commitHalf (h : FreqHalf) (d : Byte) (s : State) : State :=
  { s with freq := committed h d s.stage s.freq }

/-- `STAGE` and `FREQ` become unspecified: free values (R168, R221; log entry 10). -/
def State.scrambleReader (s : State) : State :=
  { s with stage := Config.freeStage s.draws, freq := Config.freeFreq s.draws, draws := s.draws + 1 }

/-- FRAME_DEFER8_LOW (R168). -/
def execFrameDefer8Low (d : Byte) (s : State) : Result := .next (s.stageByte d)

/-- FRAME_WRITE16_LOW (R168). -/
def execFrameWrite16Low (d : Byte) (s : State) : Result := .next (s.commitHalf .low d)

/-- FRAME_DEFER8_HIGH (R168): a defer write loads the one staging register whichever half its tag names. -/
def execFrameDefer8High (d : Byte) (s : State) : Result := .next (s.stageByte d)

/-- FRAME_WRITE16_HIGH (R168). -/
def execFrameWrite16High (d : Byte) (s : State) : Result := .next (s.commitHalf .high d)

/-- FRAME_CMD_SRC (R168): the source does not say what it does to the frequency register. -/
def execFrameCmdSrc (s : State) : Result := .next s.scrambleReader

/-- FRAME_CMD_CTRL (R168): it writes no frequency register. -/
def execFrameCmdCtrl (s : State) : Result := .next s

/-- RESERVED_OP, the code 0x0 (R69, R205): the operation has no step. -/
def execReservedOpZero (_s : State) : Result := .refused .reservedOp

/-- RESERVED_OP, the codes 0x9 to 0xF (R69, R205): the operation has no step. -/
def execReservedOpHigh (_code : BitVec 4) (_s : State) : Result := .refused .reservedOp

end Sys2Proof.Machine
end

