-- ==== Sys2Proof/Machine/Encoder.lean ====
section
/-! DEFINITION. The encoder accumulator's host operation (spec/40_encoder_accumulator.md R103). -/

namespace Sys2Proof.Machine

/-- The one atomic step of ENC_POLL (R103): `RES` is the sign-extended count and `ACC` is cleared. -/
def State.poll (s : State) : State :=
  State.finishWith (sext32 s.acc) { s.beginOp with acc := 0 }

/-- ENC_POLL (R103). -/
def execEncPoll (s : State) : Result :=
  whenIdle s State.poll

end Sys2Proof.Machine
end

