-- ==== Sys2Proof/Machine/Frequency.lean ====
section
/-! DEFINITION. The frequency model (spec/42_frequency_model.md R141 to R146). -/

namespace Sys2Proof.Machine

/-- `K = floor((2^33 + REF_CLK_HZ) / (2 · REF_CLK_HZ))` (R141). -/
def ratioK (c : Config) : Nat := (2 ^ 33 + c.refClkHz) / (2 * c.refClkHz)

/-- `COEF[k] = wrap32(K · 10^k)` (R142). -/
def coef (c : Config) (k : Nat) : Word := BitVec.ofNat 32 (ratioK c * 10 ^ k)

/-- `clamp(f)` (R143). -/
def clamp (f : Int) : Int :=
  if f < Config.fMin then Config.fMin else if f > Config.fMax then Config.fMax else f

/-- `vfo(f, usb)` (R145): the upper sideband subtracts the IF, the lower adds it. -/
def vfo (c : Config) (f : Int) (usb : Bool) : Word :=
  if usb then swrap32 (f - c.ifHz) else swrap32 (f + c.ifHz)

/-- `n` turns of the loop of `tword` from digit `k` on (R146). -/
def twordLoop (c : Config) : (n k : Nat) → (x : Int) → (acc : Word) → Word
  | 0, _, _, acc => acc
  | n + 1, k, x, acc =>
    twordLoop c n (k + 1) (tdiv x 10) (wrap32 ((acc.toNat : Int) + tmod x 10 * ((coef c k).toNat : Int)))

/-- `tword(v)`: eight decimal digits, least significant first (R146). -/
def tword (c : Config) (v : Int) : Word := twordLoop c 8 0 v 0

/-- The one atomic step of FM_VFO (R145). -/
def State.computeVfo (f : Word) (usb : Bool) (s : State) : State :=
  s.beginOp.finishWith (vfo s.cfg (asS32 f) usb)

/-- The one atomic step of FM_TWORD (R146). -/
def State.computeWord (v : Word) (s : State) : State :=
  s.beginOp.finishWith (tword s.cfg (asS32 v))

/-- FM_VFO (R145). -/
def execFmVfo (f : Word) (usb : Bool) (s : State) : Result :=
  whenIdle s (State.computeVfo f usb)

/-- FM_TWORD (R146). -/
def execFmTword (v : Word) (s : State) : Result :=
  whenIdle s (State.computeWord v)

end Sys2Proof.Machine
end

