-- ==== Sys2Proof/Machine/Serializer.lean ====
section
/-! DEFINITION. The serializer and the protocol driver (spec/43_dds_serializer.md R161 to R166): the frames of each
sequence and the atomic steps of a frame, but for what the chip reader does with a frame that has ended. -/

namespace Sys2Proof.Machine

/-- The four frames of `write_tw(w)` (R163, R64). -/
def twFrame (c : Config) (w : Word) : Nat → Half
  | 0 => tagged c.tag0 (w.extractLsb' 0 8)
  | 1 => tagged c.tag1 (w.extractLsb' 8 8)
  | 2 => tagged c.tag2 (w.extractLsb' 16 8)
  | _ => tagged c.tag3 (w.extractLsb' 24 8)

/-- The six frames of DDS_INIT (R166). -/
def initFrame (c : Config) : Nat → Half
  | 0 => c.cmdSrc
  | 1 => twFrame c Config.initWord 0
  | 2 => twFrame c Config.initWord 1
  | 3 => twFrame c Config.initWord 2
  | 4 => twFrame c Config.initWord 3
  | _ => c.cmdCtrl

/-- Frame `k` of a sequence (R162, R163, R166, R181). -/
def frameAt (c : Config) (t : Transfer) (k : Nat) : Half :=
  match t with
  | .raw f => f
  | .write w => twFrame c w k
  | .init => initFrame c k
  | .tune _ w => twFrame c w k

/-- The number of the last frame of a sequence: one, four, six, four frames (R162, R163, R166, R170). -/
def lastFrame : Transfer → Nat
  | .raw _ => 0
  | .write _ => 3
  | .init => 5
  | .tune _ _ => 3

/-- `FRAME` when frame `k` of a sequence starts: `write_tw` sets it to the frame's number, the other frames leave it
(R163, R166). -/
def frameIndexAt (t : Transfer) (k : Nat) (old : BitVec 2) : BitVec 2 :=
  match t with
  | .raw _ => old
  | .write _ => BitVec.ofNat 2 k
  | .init => if 1 ≤ k ∧ k ≤ 4 then BitVec.ofNat 2 (k - 1) else old
  | .tune _ _ => BitVec.ofNat 2 k

/-- `OPSTATE <- BUSY` with the phase that comes next (R30). -/
def State.goto (t : Transfer) (p : Phase) (s : State) : State :=
  { s with opstate := .sending t p }

/-- `IMASK_SAVED <- IMASK` (R161). -/
def State.saveImask (s : State) : State :=
  { s with imaskSaved := s.imask }

/-- `SHIFT` and `FRAME` at the start of frame `k` (R161, R163). -/
def State.loadFrame (t : Transfer) (k : Nat) (s : State) : State :=
  { s with shift := frameAt s.cfg t k, frame := frameIndexAt t k s.frame }

/-- Step F0 of frame `k` (R161): the mask is saved and set, the frame loaded, `FSYNC_N` driven low. -/
def State.startFrame (t : Transfer) (k : Nat) (s : State) : State :=
  (((s.saveImask.setImask true).loadFrame t k).drive .fsyncN false).goto t (.data k 15)

/-- The data event of bit `i` (R161): `BITIDX <- i`, `SDATA <- SHIFT[i]`. -/
def State.dataStep (t : Transfer) (k : Nat) (i : BitVec 4) (s : State) : State :=
  (State.drive .sdata (s.shift.getLsbD i.toNat) { s with bitidx := i }).goto t (.clkLow k)

/-- The falling clock event of a bit (R161). -/
def State.clkLowStep (t : Transfer) (k : Nat) (s : State) : State :=
  (s.drive .sclk false).goto t (.clkHigh k)

/-- What follows the rising clock of bit `i`: the next lower bit, or the end of the frame (R161). -/
def phaseAfterBit (k : Nat) (i : BitVec 4) : Phase :=
  if i = 0 then .fEnd k else .data k (i - 1)

/-- The rising clock event of a bit (R161). -/
def State.clkHighStep (t : Transfer) (k : Nat) (s : State) : State :=
  (s.drive .sclk true).goto t (phaseAfterBit k s.bitidx)

/-- The frame's end on the pins and the mask, step F_END (R161): `FSYNC_N` high, the saved mask restored, EDGE_SERVICE. -/
def State.endFramePins (s : State) : State :=
  let s' := s.drive .fsyncN true
  s'.setImask s'.imaskSaved

/-- What follows frame `k`: the next frame in a new step (R161), or the end of the sequence, which belongs to F_END
(R162, R163, R166) but for the relay's step of TUNE_SETFREQ (R181). -/
def State.afterFrame (t : Transfer) (k : Nat) (s : State) : State :=
  if k < lastFrame t then s.goto t (.gap (k + 1))
  else match t with
    | .raw _ => s.finishSilent
    | .write _ => s.finishSilent
    | .init => State.finishSilent { s with ddsReady := true }
    | .tune a _ => { s with opstate := .relaying a }

/-- The start step of SER_XFER16 (R162). -/
def State.startRaw (frame : Half) (s : State) : State :=
  s.beginOp.startFrame (.raw frame) 0

/-- The start step of DDS_WRITE_TW (R163). -/
def State.startWrite (word : Word) (s : State) : State :=
  s.beginOp.checkReady.startFrame (.write word) 0

/-- The start step of DDS_INIT (R166). -/
def State.startInit (s : State) : State :=
  s.beginOp.startFrame .init 0

/-- SER_XFER16 (R162). -/
def execSerXfer16 (frame : Half) (s : State) : Result :=
  whenIdle s (State.startRaw frame)

/-- DDS_WRITE_TW (R163). -/
def execDdsWriteTw (word : Word) (s : State) : Result :=
  whenIdle s (State.startWrite word)

/-- DDS_INIT (R166). -/
def execDdsInit (s : State) : Result :=
  whenIdle s State.startInit

end Sys2Proof.Machine
end

