-- ==== Sys2Proof/Machine/Tuning.lean ====
section
/-! DEFINITION. The tuning controller and the band relay (spec/44_tuning_controller.md R181, R182). -/

namespace Sys2Proof.Machine

/-- The applied frequency of TUNE_SETFREQ, as the 32 bits `RES` holds (R181, R143). -/
def appliedFreq (f : Word) : Word := swrap32 (clamp (asS32 f))

/-- The tuning word of TUNE_SETFREQ: clamp, then offset, then word (R181). -/
def tuneWord (c : Config) (f : Word) (usb : Bool) : Word :=
  tword c (asS32 (vfo c (clamp (asS32 f)) usb))

/-- The relay's level: 1 iff the applied frequency exceeds the threshold (R182). -/
def relayLevel (applied : Word) : Bool := decide (asS32 applied > Config.bandThreshold)

/-- The start step of TUNE_SETFREQ, with step F0 of its first frame (R181). -/
def State.startTune (f : Word) (usb : Bool) (s : State) : State :=
  s.beginOp.checkReady.startFrame (.tune (appliedFreq f) (tuneWord s.cfg f usb)) 0

/-- TUNE_SETFREQ (R181). -/
def execTuneSetfreq (f : Word) (usb : Bool) (s : State) : Result :=
  whenIdle s (State.startTune f usb)

/-- The final step of TUNE_SETFREQ, after the last frame's F_END (R181, R182). -/
def State.relayStep (applied : Word) (s : State) : State :=
  (s.drive .relay (relayLevel applied)).finishWith applied

end Sys2Proof.Machine
end

