-- ==== Sys2Proof/Machine/Dispatch.lean ====
section
/-! DEFINITION. The meaning of each instruction, one arm per constructor of Instr. -/

namespace Sys2Proof.Machine

def exec (i : Instr) (s : State) : Host.Outcome State Fault Refusal :=
  match i with
  | .encPoll => Sys2Proof.Machine.execEncPoll s
  | .btnClassify budget => Sys2Proof.Machine.execBtnClassify budget s
  | .fmVfo f usb => Sys2Proof.Machine.execFmVfo f usb s
  | .fmTword v => Sys2Proof.Machine.execFmTword v s
  | .serXfer16 frame => Sys2Proof.Machine.execSerXfer16 frame s
  | .ddsWriteTw word => Sys2Proof.Machine.execDdsWriteTw word s
  | .ddsInit => Sys2Proof.Machine.execDdsInit s
  | .tuneSetfreq f usb => Sys2Proof.Machine.execTuneSetfreq f usb s
  | .reservedOpZero => Sys2Proof.Machine.execReservedOpZero s
  | .reservedOpHigh code => Sys2Proof.Machine.execReservedOpHigh code s
  | .frameDefer8Low d => Sys2Proof.Machine.execFrameDefer8Low d s
  | .frameWrite16Low d => Sys2Proof.Machine.execFrameWrite16Low d s
  | .frameDefer8High d => Sys2Proof.Machine.execFrameDefer8High d s
  | .frameWrite16High d => Sys2Proof.Machine.execFrameWrite16High d s
  | .frameCmdSrc => Sys2Proof.Machine.execFrameCmdSrc s
  | .frameCmdCtrl => Sys2Proof.Machine.execFrameCmdCtrl s

end Sys2Proof.Machine
end

