-- ==== Sys2Proof/Machine/Sequencer.lean ====
section
/-! DEFINITION. The agents' moves (spec/60_exceptions.md R206, R210, R211): the host's issue of an operation, the
block's frame steps with the chip reader at each frame's end, the timer, and which of them a step takes. -/

namespace Sys2Proof.Machine

/-- Go on after an outcome: a next state is passed on, a stop stays. -/
def andThen (o : Result) (f : State → State) : Result :=
  match o with
  | .next s => .next (f s)
  | .fault r => .fault r
  | .refused r => .refused r

/-- What stands for a refused operation in a run: `before`, the state without the operation, with the reason recorded;
"a refused operation has no step and changes no state" (R205; log entry 12). -/
def absorbRefusal (before : State) (o : Result) : Result :=
  match o with
  | .next s => .next s
  | .fault r => .fault r
  | .refused r =>
    if r = .reservedOp then .next before.recordReservedOp
    else if r = .reservedOperandBits then .next before.recordReservedBits
    else .refused r

/-- The idle host interface takes an operation (R60, R69): it is decoded; a refusal is recorded and the operation
registers stay as they were; otherwise they are written and the operation starts. -/
def issue (w : HostWord) (s : State) : Result :=
  match decodeHost w with
  | .error _ => absorbRefusal s (.refused .reservedOperandBits)
  | .ok i => absorbRefusal s (exec i (s.latch w))

/-- The chip reader takes the frame it has recorded (R167, R168): one of the table's six kinds runs as its instruction,
any other frame leaves `STAGE` and `FREQ` unspecified. -/
def receiveFrame (s : State) : Result :=
  match decodeFrame s.cfg s.rx with
  | .ok i => exec i s
  | .error _ => .next s.scrambleReader

/-- Step F_END of frame `k` (R161): the pins and the mask, the reader at the rising `FSYNC_N`, and what follows. -/
def endFrame (t : Transfer) (k : Nat) (s : State) : Result :=
  andThen (receiveFrame s.endFramePins) (State.afterFrame t k)

/-- One atomic step of a frame sequence (R161). -/
def sendStep (t : Transfer) (p : Phase) (s : State) : Result :=
  match p with
  | .gap k => .next (s.startFrame t k)
  | .data k i => .next (s.dataStep t k i)
  | .clkLow k => .next (s.clkLowStep t k)
  | .clkHigh k => .next (s.clkHighStep t k)
  | .fEnd k => endFrame t k s

/-- The block's own next step (R161, R181); where it has none, the state is as it was (log entry 15). -/
def blockStep (s : State) : Result :=
  match s.opstate with
  | .idle => .next s
  | .classifying => .next s
  | .sending t p => sendStep t p s
  | .relaying a => .next (s.relayStep a)

/-- The step that brings the operation in progress forward: the timer's while a classification runs, the block's
otherwise (R206, R232). -/
def progress (s : State) : Result :=
  match s.opstate with
  | .idle => .next s
  | .classifying => .next s.timerStep
  | .sending _ _ => blockStep s
  | .relaying _ => blockStep s

/-- The step in which the next move is `m` and `rest` are the moves after it. A host operation issued while busy is
held: it stays the next move and the operation in progress goes on (R206; log entry 2). -/
def takeMove (m : Move) (rest : List Move) (s : State) : Result :=
  match m with
  | .host w =>
    match s.opstate with
    | .idle => issue w (s.withAgenda rest)
    | .classifying => progress s
    | .sending _ _ => progress s
    | .relaying _ => progress s
  | .readRes => .next (s.withAgenda rest).readRes
  | .env a b n => .next ((s.withAgenda rest).envStep a b n)
  | .timer => .next (s.withAgenda rest).timerStep
  | .block => blockStep (s.withAgenda rest)
  | .reset => .next (s.withAgenda rest).resetNow

/-- The next move of the machine; with no move listed, the operation in progress goes on, and an idle block waits
(log entry 3). -/
def nextMove (s : State) : Result :=
  match s.agenda with
  | [] => progress s
  | m :: rest => takeMove m rest s

/-- The start of a model instance: the reset state, or, where the configuration breaks R8, the refusal of the whole model
before reset (R205). The arguments are those of `State.resetOf`. -/
def boot (c : Config) (a b n : Bool) (draw : Nat) (moves : List Move) : Result :=
  if configOk c then .next (State.resetOf c a b n draw moves) else .refused .badConfiguration

/-- No step of a model whose configuration breaks R8 is taken, a reset among them (R205; log entry 12). -/
def guarded (s : State) : Result :=
  if configOk s.cfg then nextMove s else .refused .badConfiguration

/-- The state in which the host's next move is the operation `w` and nothing keeps it from starting (log entry 16). -/
def State.placeHost (w : HostWord) (s : State) : State :=
  { s with opstate := .idle, agenda := .host w :: s.agenda }

/-- The state in which the frame `f` has been shifted out and recorded by the chip reader and step F_END is next
(log entry 16). -/
def State.placeFrame (f : Half) (s : State) : State :=
  { s with
    opstate := .sending (.raw f) (.fEnd 0), shift := f, rx := f, bitidx := 0
    imask := true, imaskSaved := false, fsyncN := false, sclk := true, sdata := f.getLsbD 0
    agenda := .block :: s.agenda }

end Sys2Proof.Machine
end

