-- ==== Sys2Proof/Machine/Step.lean ====
section
/-! DEFINITION. One step of the machine: one atomic step of one agent (spec/00_scope.md R12, spec/20_memory.md R56). -/

namespace Sys2Proof.Machine

/-- One atomic step: the next move of the agenda, under a well-formed configuration (R205). -/
def step (s : State) : Host.Outcome State Fault Refusal := guarded s

/-- `s` with the instruction of a table word where the next step takes it: a 16-bit word is a frame whose end is next,
any other a host operation that the idle host interface takes next (log entry 16). -/
def State.withFetchWord (s : State) (nbits w : Nat) : State :=
  if nbits = 16 then s.placeFrame (BitVec.ofNat 16 w) else s.placeHost (hostWordOfNat w)

end Sys2Proof.Machine
end

