-- ==== Sys2Proof/Safety.lean ====
section
/-! DEFINITION. The terms claims use: runs, the state invariant, the end of a run (spec/70_reset_and_hazards.md R234),
a frame's trace and its receiver (spec/43_dds_serializer.md R161, R167), net edge counts
(spec/40_encoder_accumulator.md R106). -/

namespace Sys2Proof.Machine

/-- `n` steps of the machine, as long as each answers a next state. -/
def steps : Nat → State → Result
  | 0, s => .next s
  | n + 1, s =>
    match step s with
    | .next s' => steps n s'
    | .fault r => .fault r
    | .refused r => .refused r

/-- A frame is in progress: after its step F0 and before its step F_END (R161). -/
def inFrame : OpState → Bool
  | .idle => false
  | .classifying => false
  | .relaying _ => false
  | .sending _ (.gap _) => false
  | .sending _ (.data _ _) => true
  | .sending _ (.clkLow _) => true
  | .sending _ (.clkHigh _) => true
  | .sending _ (.fEnd _) => true

/-- The bit clock is low: between the two clock events of a bit (R161). -/
def clockIsLow : OpState → Bool
  | .sending _ (.clkHigh _) => true
  | .sending _ (.gap _) => false
  | .sending _ (.data _ _) => false
  | .sending _ (.clkLow _) => false
  | .sending _ (.fEnd _) => false
  | .idle => false
  | .classifying => false
  | .relaying _ => false

/-- The number of the frame a phase belongs to. -/
def Phase.frameNo : Phase → Nat
  | .gap k => k
  | .data k _ => k
  | .clkLow k => k
  | .clkHigh k => k
  | .fEnd k => k

/-- What holds between steps, whatever the agents do: R104 and the facts beside it. -/
structure Consistent (s : State) : Prop where
  /-- `IMASK = 1` exactly while a frame is in progress (R104, R161). -/
  mask : s.imask = inFrame s.opstate
  /-- `PEND = 1` implies `IMASK = 1` (R104). -/
  pending : s.pend = true → s.imask = true
  /-- The mask that a frame will restore is open (R169). -/
  saved : inFrame s.opstate = true → s.imaskSaved = false
  /-- `FSYNC_N` is low exactly within a frame (R28, R160). -/
  frameStart : s.fsyncN = !inFrame s.opstate
  /-- `SCLK` is low exactly between a bit's two clock events (R160, R161). -/
  clock : s.sclk = !clockIsLow s.opstate
  /-- The classifier is idle exactly when no classification runs (R121, R126). -/
  classifier : s.bstate = .bIdle ↔ s.opstate ≠ .classifying
  /-- `REM > 0` while the classifier waits for a tick (R123). -/
  budget : s.bstate = .bWait → s.rem ≠ 0
  /-- The frame in progress or next is one of the sequence's. -/
  position : ∀ t p, s.opstate = .sending t p → p.frameNo ≤ lastFrame t
  /-- `SHIFT` holds the frame in progress (R161). -/
  shifting : ∀ t p, s.opstate = .sending t p → inFrame s.opstate = true → s.shift = frameAt s.cfg t p.frameNo
  /-- `RES_VALID = 0` while an operation is in progress (R30, R203). -/
  noResult : s.opstate ≠ .idle → s.resValid = false
  /-- `ENC_A_LAST` is the level of `ENC_A` between environment steps (R26, R101). -/
  edge : s.encALast = s.encA
  /-- The refusal mark holds `BadConfiguration` exactly when the configuration breaks R8 (R205; log entries 5
  and 12, DEDUCED). -/
  configuration : s.refusals.badConfiguration = !configOk s.cfg

/-- No fault is marked (R202). -/
def faultFree (s : State) : Bool := !s.fault.resultNotValid && !s.fault.ddsNotInitialised

/-- No refusal is recorded (R205). -/
def refusalFree (s : State) : Bool :=
  !s.refusals.reservedOp && !s.refusals.reservedOperandBits && !s.refusals.badConfiguration

/-- A move of the host that issues an operation. -/
def Move.isOperation : Move → Bool
  | .host _ => true
  | .readRes => false
  | .env _ _ _ => false
  | .timer => false
  | .block => false
  | .reset => false

/-- A run ends successfully in such a state (R234); a model whose configuration breaks R8 is refused whole and has no
run (R205). -/
def successfulEnd (s : State) : Bool :=
  configOk s.cfg && decide (s.opstate = .idle) && decide (s.bstate = .bIdle) && !s.pend && !s.imask
    && faultFree s && refusalFree s && s.agenda.all fun m => !m.isOperation

/-- The observation of a run (R234). -/
structure Observation where
  trace : List PinEvent
  acc : Half
  relay : Bool
  reads : List Word
  deriving DecidableEq, Repr

/-- What R234 observes of a run that ends in `s`. -/
def observe (s : State) : Observation :=
  { trace := s.trace, acc := s.acc, relay := s.relay, reads := s.reads }

/-- The three events of bit `i` (R161). -/
def bitTrace (f : Half) (i : Nat) : List PinEvent :=
  [(.sdata, f.getLsbD i), (.sclk, false), (.sclk, true)]

/-- The 50 events of one frame (R161, R162). -/
def frameTrace (f : Half) : List PinEvent :=
  (.fsyncN, false) :: (List.range 16).flatMap (fun j => bitTrace f (15 - j)) ++ [(.fsyncN, true)]

/-- The frames of `write_tw(w)` on the bus (R163). -/
def writeTrace (c : Config) (w : Word) : List PinEvent :=
  frameTrace (twFrame c w 0) ++ frameTrace (twFrame c w 1) ++ frameTrace (twFrame c w 2) ++ frameTrace (twFrame c w 3)

/-- A receiver on the bus: the levels it sees, the bits of the current frame, the frames it has recovered (R167). -/
structure Receiver where
  fsyncN : Bool
  sclk : Bool
  sdata : Bool
  bits : Half
  recovered : List Half
  deriving DecidableEq, Repr

/-- One pin event at a receiver that records `SDATA` when `SCLK` changes to `edge` (R167). -/
def Receiver.see (edge : Bool) (r : Receiver) (e : PinEvent) : Receiver :=
  match e.1 with
  | .fsyncN =>
    if r.fsyncN && !e.2 then { r with fsyncN := e.2, bits := 0 }
    else if !r.fsyncN && e.2 then { r with fsyncN := e.2, recovered := r.recovered ++ [r.bits] }
    else { r with fsyncN := e.2 }
  | .sclk =>
    if e.2 == edge && !(r.sclk == edge) && !r.fsyncN then
      { r with sclk := e.2, bits := (r.bits <<< 1) ||| (BitVec.ofBool r.sdata).zeroExtend 16 }
    else { r with sclk := e.2 }
  | .sdata => { r with sdata := e.2 }
  | .relay => r

/-- The frames a receiver recovers from a trace that starts on an idle bus (R160, R167). -/
def recoverFrames (edge : Bool) (tr : List PinEvent) : List Half :=
  (tr.foldl (Receiver.see edge) ⟨true, true, false, 0, []⟩).recovered

/-- A move that may stand between the steps of a frame sequence: everything but an operation of the host and a reset. -/
def Move.passes : Move → Bool
  | .host _ => false
  | .readRes => true
  | .env _ _ _ => true
  | .timer => true
  | .block => true
  | .reset => false

/-- A move of the environment, or a read of `RES`. -/
def Move.outside : Move → Bool
  | .host _ => false
  | .readRes => true
  | .env _ _ _ => true
  | .timer => false
  | .block => false
  | .reset => false

/-- Edges applied with `ENC_B = 0` less edges applied with `ENC_B = 1`, over moves made while the mask is open, from
the levels of `ENC_A` and `ENC_B` before them (R106). -/
def netEdges : (a b : Bool) → List Move → Int
  | _, _, [] => 0
  | a, b, .env a' b' _ :: ms =>
    (if !a && a'.getD a then (if b'.getD b then -1 else 1) else 0) + netEdges (a'.getD a) (b'.getD b) ms
  | a, b, .host _ :: ms => netEdges a b ms
  | a, b, .readRes :: ms => netEdges a b ms
  | a, b, .timer :: ms => netEdges a b ms
  | a, b, .block :: ms => netEdges a b ms
  | a, b, .reset :: ms => netEdges a b ms

end Sys2Proof.Machine
end

