-- ==== Sys2Proof/WellFormed.lean ====
section
/-! DEFINITION. Which terms of `Instr` an encoding can give (spec/30_encoding.md R61, R69). -/

namespace Sys2Proof

/-- The reserved code of the table's second `RESERVED_OP` row is one of 0x9 to 0xF (R69); every other operand is
as wide as its field, so every value of it is encodable (R62, R63). -/
def Instr.wf : Instr → Bool
  | .encPoll => true
  | .btnClassify _ => true
  | .fmVfo _ _ => true
  | .fmTword _ => true
  | .serXfer16 _ => true
  | .ddsWriteTw _ => true
  | .ddsInit => true
  | .tuneSetfreq _ _ => true
  | .reservedOpZero => true
  | .reservedOpHigh code => decide (9 ≤ code.toNat)
  | .frameDefer8Low _ => true
  | .frameWrite16Low _ => true
  | .frameDefer8High _ => true
  | .frameWrite16High _ => true
  | .frameCmdSrc => true
  | .frameCmdCtrl => true

end Sys2Proof
end

