-- ==== Sys2Proof/Certificates/Slice0/Obligations.lean ====
section
/-! DEFINITION. The statements for the provers. Each says which rule of spec/ it formalises; results are written out in
numbers and fields, not with the model's own helpers, wherever that is readable. A result written as a record update of
the state before says at once what every other field is: unchanged. -/

open Sys2Proof Sys2Proof.Machine

/-! ### Encoding -/

/-- 30_encoding.md R60 to R65: decoding an encoded well-formed instruction gives it back, for every operand, under a
configuration whose frame kinds are told apart (log entry 6, DESIGN CHOICE). The encoder's 0 in an operand register
that the operation does not use is log entry 28 (DESIGN CHOICE). -/
def Obligations.DecodeOfEncodeIsIdentity : Prop :=
  ∀ (c : Config) (i : Instr), framesApart c = true → i.wf = true → decode c (encode c i) = .ok i

/-- R63 to R65, R168: a frame the chip reader decodes is the encoding of what it decodes to, under every
configuration: no frame bit is dropped. -/
def Obligations.DecodedFrameEncodesBack : Prop :=
  ∀ (c : Config) (f : Half) (i : Instr), decodeFrame c f = .ok i → encode c i = .frame f

/-- R61, R62, R67: every code with its operands, in numbers: `OPB[15:1] = 0` is `OPB < 2`, `OPA[31:16] = 0` is
`OPA < 2^16`. -/
def Obligations.HostDecodingFollowsTheTable : Prop :=
  ∀ (opa : Word) (opb : Half),
    decodeHost ⟨0x1, opa, opb⟩ = .ok .encPoll
    ∧ decodeHost ⟨0x2, opa, opb⟩ = .ok (.btnClassify opb)
    ∧ (opb.toNat < 2 → decodeHost ⟨0x3, opa, opb⟩ = .ok (.fmVfo opa (decide (opb.toNat = 1))))
    ∧ decodeHost ⟨0x4, opa, opb⟩ = .ok (.fmTword opa)
    ∧ (opa.toNat < 2 ^ 16 → decodeHost ⟨0x5, opa, opb⟩ = .ok (.serXfer16 (BitVec.ofNat 16 opa.toNat)))
    ∧ decodeHost ⟨0x6, opa, opb⟩ = .ok (.ddsWriteTw opa)
    ∧ decodeHost ⟨0x7, opa, opb⟩ = .ok .ddsInit
    ∧ (opb.toNat < 2 → decodeHost ⟨0x8, opa, opb⟩ = .ok (.tuneSetfreq opa (decide (opb.toNat = 1))))
    ∧ decodeHost ⟨0x0, opa, opb⟩ = .ok .reservedOpZero
    ∧ ∀ code : BitVec 4, 9 ≤ code.toNat → decodeHost ⟨code, opa, opb⟩ = .ok (.reservedOpHigh code)

/-- R62, R69: the decoder refuses a host word exactly when a must-be-zero operand bit is 1, and what it decodes is
well formed. -/
def Obligations.HostDecodingRefusesOnlyReservedBits : Prop :=
  ∀ w : HostWord,
    (decodeHost w = .error .reservedOperandBits ↔
      ((w.op = 0x3 ∨ w.op = 0x8) ∧ 2 ≤ w.opb.toNat) ∨ (w.op = 0x5 ∧ 2 ^ 16 ≤ w.opa.toNat))
    ∧ (decodeHost w ≠ .error .reservedOperandBits → ∃ i, decodeHost w = .ok i ∧ i.wf = true)

/-- A few words written out from the spec's tables decode to what they stand for (95_test_vectors.md P1, P3, X2). P3
gives no `OPA` for BTN_CLASSIFY; the 0 here is log entry 28 (DESIGN CHOICE). The layout of the word of
`decodeTableWord` is log entry 16 (DESIGN CHOICE). -/
def Obligations.WrittenOutWordsDecode : Prop :=
  decodeHost ⟨0x8, 0x00D9B278, 0x0001⟩ = .ok (.tuneSetfreq 14267000 true)
  ∧ decodeHost ⟨0x8, 0x00387138, 0x0000⟩ = .ok (.tuneSetfreq 3699000 false)
  ∧ decodeHost ⟨0x2, 0x00000000, 0x0032⟩ = .ok (.btnClassify 50)
  ∧ decodeFrame Config.pEx 0x3078 = .ok (.frameDefer8Low 0x78)
  ∧ decodeFrame Config.pEx 0x2312 = .ok (.frameWrite16High 0x12)
  ∧ decodeTableWord 8 0x1 = some .encPoll

/-! ### The step and the instruction it runs -/

/-- R60, R30, R206: an idle host interface whose next move is an operation runs exactly the decoded instruction, after
the operation registers are written. A reserved code changes nothing and is recorded (R69, R205); that the step
answers a next state there is the model's reading, log entry 12 (DEDUCED), and which registers stay is log entry 23
(DEDUCED). -/
def Obligations.StepRunsTheDecodedOperation : Prop :=
  ∀ (s : State) (w : HostWord) (rest : List Move) (i : Instr),
    configOk s.cfg = true → s.opstate = .idle → s.agenda = .host w :: rest → decodeHost w = .ok i →
    (i ≠ .reservedOpZero → (∀ code, i ≠ .reservedOpHigh code) →
      step s = exec i { s with agenda := rest, op := w.op, opa := w.opa, opb := w.opb })
    ∧ ((i = .reservedOpZero ∨ ∃ code, i = .reservedOpHigh code) →
      exec i { s with agenda := rest, op := w.op, opa := w.opa, opb := w.opb } = .refused .reservedOp
      ∧ step s = .next { s with agenda := rest, refusals := { s.refusals with reservedOp := true } })

/-- R161, R226: step F_END ends the frame, its pins and its mask change, and then comes what follows the frame. That
the ghost reader of R168 stands in the machine, records at the rising clock and takes the frame in this step is the
model's choice (log entry 9, DESIGN CHOICE; R167 shows that either clock edge gives the same frame); that the table's
frame rows run there, with R168's effect as their meaning, is the model's choice too (log entry 17, DESIGN CHOICE).
The step runs exactly the instruction that the recorded frame decodes to; a frame of no kind leaves the reader's
registers at free values (R168; log entry 10, DESIGN CHOICE). -/
def Obligations.FrameEndRunsTheReceivedFrame : Prop :=
  ∀ (s : State) (tr : Transfer) (k : Nat) (rest : List Move),
    configOk s.cfg = true → s.opstate = .sending tr (.fEnd k) → s.agenda = .block :: rest →
    (∀ i, decodeFrame s.cfg s.rx = .ok i →
      ∃ u, exec i (State.endFramePins { s with agenda := rest }) = .next u ∧ step s = .next (u.afterFrame tr k))
    ∧ (decodeFrame s.cfg s.rx = .error .otherFrame →
      ∃ m, step s = .next (State.afterFrame tr k
        { State.endFramePins { s with agenda := rest } with
          stage := Config.freeStage m, freq := Config.freeFreq m, draws := s.draws + 1 }))

/-- R69, R205: the reserved codes are refused on every path. -/
def Obligations.ReservedCodesAreRefused : Prop :=
  ∀ s : State, exec .reservedOpZero s = .refused .reservedOp
    ∧ ∀ code, exec (.reservedOpHigh code) s = .refused .reservedOp

/-- R62, R69, R205: a host operation with a nonzero must-be-zero bit has no step; the refusal is recorded and nothing
else changes. That the machine's step answers a next state that records it is log entry 12 (DEDUCED). -/
def Obligations.ReservedOperandBitsAreRefused : Prop :=
  ∀ (s : State) (w : HostWord) (rest : List Move),
    configOk s.cfg = true → s.opstate = .idle → s.agenda = .host w :: rest →
    (((w.op = 0x3 ∨ w.op = 0x8) ∧ 2 ≤ w.opb.toNat) ∨ (w.op = 0x5 ∧ 2 ^ 16 ≤ w.opa.toNat)) →
    step s = .next { s with agenda := rest, refusals := { s.refusals with reservedOperandBits := true } }

/-- R8, R205: with a configuration outside the constraints the whole model is refused before reset: it does not start,
every step is refused, the reset state of `State.resetOf` has the refusal in its mark, and no state is a successful end
(R234). Under every other configuration it starts in the reset state, with no such refusal recorded, and no step answers
this refusal. The ranges are those of R8, the tag constraint is the model's reading of it (log entry 5, DEDUCED); that
each step answers the refusal and that the mark stands in the state is log entry 12 (DEDUCED). -/
def Obligations.BadConfigurationIsRefused : Prop :=
  ∀ (s : State) (a b n : Bool) (draw : Nat) (ms : List Move),
    let breaksR8 : Prop :=
      ¬ (2 ≤ s.cfg.refClkHz ∧ s.cfg.refClkHz ≤ 2 ^ 32 ∧ s.cfg.ifHz ≤ 79999999
        ∧ s.cfg.tag0 ≠ s.cfg.tag2 ∧ s.cfg.tag0 ≠ s.cfg.tag3 ∧ s.cfg.tag1 ≠ s.cfg.tag2 ∧ s.cfg.tag1 ≠ s.cfg.tag3)
    (step s = .refused .badConfiguration ↔ breaksR8)
    ∧ (breaksR8 → boot s.cfg a b n draw ms = .refused .badConfiguration)
    ∧ (¬ breaksR8 → boot s.cfg a b n draw ms = .next (State.resetOf s.cfg a b n draw ms))
    ∧ ((State.resetOf s.cfg a b n draw ms).refusals.badConfiguration = true ↔ breaksR8)
    ∧ (breaksR8 → successfulEnd s = false)

/-- R206: a host operation issued while busy holds. That it stays the next move, and that the operation in progress
meanwhile goes on as it would with no move listed, is the model's form of the hold (log entries 2, DEDUCED, and 3,
DESIGN CHOICE); that the operation registers stay is log entry 23 (DEDUCED). -/
def Obligations.BusyHostIsHeld : Prop :=
  ∀ (s : State) (w : HostWord) (rest : List Move),
    configOk s.cfg = true → s.opstate ≠ .idle → s.agenda = .host w :: rest →
    ∃ t, step s = .next t ∧ t.agenda = s.agenda ∧ t.op = s.op ∧ t.opa = s.opa ∧ t.opb = s.opb
      ∧ step { s with agenda := [] } = .next { t with agenda := [] }

/-- R103 and R206: the meaning of a host operation asked for while busy is refused, and the step never asks: it holds
(log entry 2, DEDUCED). -/
def Obligations.BusyMeaningsAreRefused : Prop :=
  ∀ (s : State) (i : Instr), s.opstate ≠ .idle →
    (∃ c w, encode c i = .host w) → i ≠ .reservedOpZero → (∀ code, i ≠ .reservedOpHigh code) →
    exec i s = .refused .busy

/-! ### What each instruction does -/

/-- R103: ENC_POLL returns the sign-extended count and clears it, in one step; nothing else changes. -/
def Obligations.EncPollResult : Prop :=
  ∀ s : State, s.opstate = .idle →
    exec .encPoll s = .next { s with acc := 0, res := BitVec.ofInt 32 s.acc.toInt, resValid := true }

/-- R121: the start step of BTN_CLASSIFY: button up; down with a turn; down with a zero budget; down otherwise. The
form of `BUSY` is log entry 22 (DESIGN CHOICE). -/
def Obligations.BtnClassifyStart : Prop :=
  ∀ (s : State) (b : Half), s.opstate = .idle →
    (s.btnN = true →
      exec (.btnClassify b) s = .next { s with res := 0, resValid := true, bstate := .bIdle })
    ∧ (s.btnN = false → s.acc ≠ 0 →
      exec (.btnClassify b) s = .next { s with res := 3, resValid := true, bstate := .bIdle, rem := b })
    ∧ (s.btnN = false → s.acc = 0 → b = 0 →
      exec (.btnClassify b) s = .next { s with res := 2, resValid := true, bstate := .bIdle, rem := 0 })
    ∧ (s.btnN = false → s.acc = 0 → b ≠ 0 →
      exec (.btnClassify b) s =
        .next { s with resValid := false, bstate := .bWait, rem := b, opstate := .classifying })

/-- R145: FM_VFO subtracts the IF for the upper sideband and adds it for the lower, wrapping to 32 bits. -/
def Obligations.FmVfoResult : Prop :=
  ∀ (s : State) (f : Word) (usb : Bool), s.opstate = .idle →
    exec (.fmVfo f usb) s =
      .next { s with
        res := if usb then BitVec.ofInt 32 (f.toInt - s.cfg.ifHz) else BitVec.ofInt 32 (f.toInt + s.cfg.ifHz)
        resValid := true }

/-- R146 with its closed form R147: FM_TWORD gives `wrap32(K · tmod(v, 10^8))`. -/
def Obligations.FmTwordResult : Prop :=
  ∀ (s : State) (v : Word), s.opstate = .idle →
    exec (.fmTword v) s =
      .next { s with res := BitVec.ofInt 32 ((ratioK s.cfg : Int) * v.toInt.tmod (10 ^ 8)), resValid := true }

/-- R162, R161 step F0: SER_XFER16 starts its frame: the mask saved and set, the frame loaded, `FSYNC_N` low. That the
chip reader's record `rx` starts empty at a falling `FSYNC_N` is log entry 9 (DESIGN CHOICE), the form of the phase
log entry 22 (DESIGN CHOICE), and that the issue and F0 share a step log entry 13 (DEDUCED). -/
def Obligations.SerXferStart : Prop :=
  ∀ (s : State) (f : Half), s.opstate = .idle →
    exec (.serXfer16 f) s =
      .next { s with
        resValid := false, imaskSaved := s.imask, imask := true, shift := f, fsyncN := false
        rx := if s.fsyncN then 0 else s.rx
        trace := s.trace ++ [(.fsyncN, false)], opstate := .sending (.raw f) (.data 0 15) }

/-- R163, R204: DDS_WRITE_TW marks `DdsNotInitialised` when `DDS_READY = 0` and starts frame 0, `TAG[0] ∥ w[7:0]`, in
either case. That the chip reader's record `rx` starts empty at a falling `FSYNC_N` is log entry 9 (DESIGN CHOICE),
the form of the phase log entry 22 (DESIGN CHOICE), and that the issue and F0 share a step log entry 13 (DEDUCED). -/
def Obligations.DdsWriteStart : Prop :=
  ∀ (s : State) (w : Word), s.opstate = .idle →
    exec (.ddsWriteTw w) s =
      .next { s with
        resValid := false, imaskSaved := s.imask, imask := true, fsyncN := false
        fault := { s.fault with ddsNotInitialised := s.fault.ddsNotInitialised || !s.ddsReady }
        shift := BitVec.ofNat 16 (s.cfg.tag0.toNat * 256 + w.toNat % 256), frame := 0
        rx := if s.fsyncN then 0 else s.rx
        trace := s.trace ++ [(.fsyncN, false)], opstate := .sending (.write w) (.data 0 15) }

/-- R166: DDS_INIT starts with the frame `CMD_SRC`; it has no fault and leaves `FRAME` as it was. That the chip
reader's record `rx` starts empty at a falling `FSYNC_N` is log entry 9 (DESIGN CHOICE), the form of the phase log
entry 22 (DESIGN CHOICE), and that the issue and F0 share a step log entry 13 (DEDUCED). -/
def Obligations.DdsInitStart : Prop :=
  ∀ s : State, s.opstate = .idle →
    exec .ddsInit s =
      .next { s with
        resValid := false, imaskSaved := s.imask, imask := true, fsyncN := false
        shift := s.cfg.cmdSrc
        rx := if s.fsyncN then 0 else s.rx
        trace := s.trace ++ [(.fsyncN, false)], opstate := .sending .init (.data 0 15) }

/-- R181, R204: TUNE_SETFREQ clamps, shifts by the IF and computes the word (by R147, `wrap32(K · tmod(v, 10^8))`),
marks `DdsNotInitialised` when `DDS_READY = 0`, and starts frame 0 of the write. That the chip reader's record `rx`
starts empty at a falling `FSYNC_N` is log entry 9 (DESIGN CHOICE), the form of the phase log entry 22 (DESIGN
CHOICE), and that the issue and F0 share a step log entry 13 (DEDUCED). -/
def Obligations.TuneSetfreqStart : Prop :=
  ∀ (s : State) (f a v w : Word) (usb : Bool), s.opstate = .idle →
    a = BitVec.ofInt 32 (max 100000 (min 20000000 f.toInt)) →
    v = BitVec.ofInt 32 (if usb then a.toInt - s.cfg.ifHz else a.toInt + s.cfg.ifHz) →
    w = BitVec.ofInt 32 ((ratioK s.cfg : Int) * v.toInt.tmod (10 ^ 8)) →
    exec (.tuneSetfreq f usb) s =
      .next { s with
        resValid := false, imaskSaved := s.imask, imask := true, fsyncN := false
        fault := { s.fault with ddsNotInitialised := s.fault.ddsNotInitialised || !s.ddsReady }
        shift := BitVec.ofNat 16 (s.cfg.tag0.toNat * 256 + w.toNat % 256), frame := 0
        rx := if s.fsyncN then 0 else s.rx
        trace := s.trace ++ [(.fsyncN, false)], opstate := .sending (.tune a w) (.data 0 15) }

/-- R168: the two 8-bit-mode frames load the staging register; `CMD_CTRL` changes nothing; `CMD_SRC` leaves both of
the reader's registers at free values. Nothing else of the machine changes. That a frame row of the table means this
effect is log entry 17 (DESIGN CHOICE), the form of the free values log entry 10 (DESIGN CHOICE). -/
def Obligations.StagingAndCommandFrames : Prop :=
  ∀ (s : State) (d : Byte),
    exec (.frameDefer8Low d) s = .next { s with stage := d }
    ∧ exec (.frameDefer8High d) s = .next { s with stage := d }
    ∧ exec .frameCmdCtrl s = .next s
    ∧ exec .frameCmdSrc s =
      .next { s with stage := Config.freeStage s.draws, freq := Config.freeFreq s.draws, draws := s.draws + 1 }

/-- R168, R51: the two 16-bit-mode frames replace the low or the high half of `FREQ` by the data byte above the staged
byte, and keep the other half. That a frame row of the table means this effect is log entry 17 (DESIGN CHOICE). -/
def Obligations.CommitFrames : Prop :=
  ∀ (s : State) (d : Byte),
    exec (.frameWrite16Low d) s =
      .next { s with
        freq := BitVec.ofNat 32 (s.freq.toNat / 2 ^ 16 * 2 ^ 16 + (d.toNat * 2 ^ 8 + s.stage.toNat)) }
    ∧ exec (.frameWrite16High d) s =
      .next { s with
        freq := BitVec.ofNat 32 ((d.toNat * 2 ^ 8 + s.stage.toNat) * 2 ^ 16 + s.freq.toNat % 2 ^ 16) }

/-! ### Frames on the bus -/

/-- R161, R162, R107: SER_XFER16 of any frame, with any moves of the environment, the timer or reads of `RES` between
its 50 atomic steps: the trace gains exactly the frame's 50 events, the bus is idle again, `SDATA` is left at bit 0,
the mask is open, at most one edge of the window was applied. That issue and F0 share a step is log entry 13
(DEDUCED), the reader's record `rx` log entry 9 (DESIGN CHOICE), that a timer move is dropped here log entry 15
(DESIGN CHOICE). -/
def Obligations.RawFrameUnderInterleaving : Prop :=
  ∀ (s : State) (f opb : Half) (ms rest : List Move),
    configOk s.cfg = true → Consistent s → s.opstate = .idle →
    (∀ m ∈ ms, m.passes = true) → ms.count .block = 48 →
    s.agenda = .host ⟨0x5, f.zeroExtend 32, opb⟩ :: (ms ++ .block :: rest) →
    ∃ t, steps (ms.length + 2) s = .next t ∧ t.opstate = .idle ∧ t.agenda = rest
      ∧ t.trace = s.trace ++ frameTrace f
      ∧ t.fsyncN = true ∧ t.sclk = true ∧ t.sdata = f.getLsbD 0
      ∧ t.imask = false ∧ t.pend = false
      ∧ (t.acc = s.acc ∨ t.acc = s.acc + 1 ∨ t.acc = s.acc - 1)
      ∧ t.res = s.res ∧ t.resValid = false ∧ t.relay = s.relay ∧ t.ddsReady = s.ddsReady ∧ t.rx = f

/-- R163, R164: DDS_WRITE_TW of any word, with any such moves between its 200 atomic steps: the trace gains exactly
the four tagged frames in order, and the chip reader holds the word, whatever it held before. Configurations in which
the two tags of one half are equal are left out: the reader cannot tell the modes there (log entry 5, DEDUCED). The
count of steps is log entry 13 (DEDUCED), the reader in the machine log entry 9 (DESIGN CHOICE). -/
def Obligations.WriteLawUnderInterleaving : Prop :=
  ∀ (s : State) (w : Word) (opb : Half) (ms rest : List Move),
    configOk s.cfg = true → s.cfg.tag0 ≠ s.cfg.tag1 → s.cfg.tag2 ≠ s.cfg.tag3 → Consistent s → s.opstate = .idle →
    (∀ m ∈ ms, m.passes = true) → ms.count .block = 198 →
    s.agenda = .host ⟨0x6, w, opb⟩ :: (ms ++ .block :: rest) →
    ∃ t, steps (ms.length + 2) s = .next t ∧ t.opstate = .idle ∧ t.agenda = rest
      ∧ t.trace = s.trace ++ writeTrace s.cfg w
      ∧ t.freq = w ∧ t.imask = false ∧ t.pend = false
      ∧ t.res = s.res ∧ t.resValid = false ∧ t.relay = s.relay ∧ t.ddsReady = s.ddsReady

/-- R164, R226: from the end of frame 1 to the step before the end of frame 3 the chip reader holds the old high half
and the new low half. Configurations in which the two tags of one half are equal are left out (log entry 5, DEDUCED);
the count of steps is log entry 13 (DEDUCED), the reader in the machine log entry 9 (DESIGN CHOICE). -/
def Obligations.MixedFrequencyDuringWrite : Prop :=
  ∀ (s : State) (w : Word) (opb : Half) (ms rest : List Move),
    configOk s.cfg = true → s.cfg.tag0 ≠ s.cfg.tag1 → s.cfg.tag2 ≠ s.cfg.tag3 → Consistent s → s.opstate = .idle →
    (∀ m ∈ ms, m.passes = true) → 99 ≤ ms.count .block → ms.count .block ≤ 198 →
    s.agenda = .host ⟨0x6, w, opb⟩ :: (ms ++ rest) →
    ∃ t, steps (ms.length + 1) s = .next t
      ∧ t.freq.toNat = s.freq.toNat / 2 ^ 16 * 2 ^ 16 + w.toNat % 2 ^ 16

/-- R166, R170, R168: DDS_INIT sends its six frames in 300 steps, sets `DDS_READY` in the last, and leaves the chip
reader at `FREQ = 1`. Configurations whose frame kinds coincide (equal tags of one half, a command word with a tag,
equal command words) are left out (log entries 5, DEDUCED, and 6, DESIGN CHOICE). The count of steps is log entry 13
(DEDUCED), the reader in the machine log entry 9 (DESIGN CHOICE). -/
def Obligations.InitUnderInterleaving : Prop :=
  ∀ (s : State) (opa : Word) (opb : Half) (ms rest : List Move),
    configOk s.cfg = true → framesApart s.cfg = true → Consistent s → s.opstate = .idle →
    (∀ m ∈ ms, m.passes = true) → ms.count .block = 298 →
    s.agenda = .host ⟨0x7, opa, opb⟩ :: (ms ++ .block :: rest) →
    ∃ t, steps (ms.length + 2) s = .next t ∧ t.opstate = .idle ∧ t.agenda = rest
      ∧ t.trace = s.trace ++ frameTrace s.cfg.cmdSrc ++ writeTrace s.cfg 1 ++ frameTrace s.cfg.cmdCtrl
      ∧ t.ddsReady = true ∧ t.freq = 1 ∧ t.imask = false ∧ t.pend = false
      ∧ t.res = s.res ∧ t.resValid = false ∧ t.relay = s.relay
      ∧ t.fault.ddsNotInitialised = s.fault.ddsNotInitialised

/-- R181, R182, R183: TUNE_SETFREQ returns the clamped frequency, sends the word's four frames and drives the relay
last, and the chip reader holds `wrap32(K · vfo(clamp(f), usb))`. That the relay has a step of its own, the 201st, is
log entry 13 (DEDUCED). Configurations in which the two tags of one half are equal are left out (log entry 5,
DEDUCED). The reader in the machine is log entry 9 (DESIGN CHOICE). -/
def Obligations.TuneUnderInterleaving : Prop :=
  ∀ (s : State) (f a : Word) (usb : Bool) (ms rest : List Move),
    configOk s.cfg = true → s.cfg.tag0 ≠ s.cfg.tag1 → s.cfg.tag2 ≠ s.cfg.tag3 → Consistent s → s.opstate = .idle →
    (∀ m ∈ ms, m.passes = true) → ms.count .block = 199 →
    s.agenda = .host ⟨0x8, f, if usb then 1 else 0⟩ :: (ms ++ .block :: rest) →
    a = BitVec.ofInt 32 (max 100000 (min 20000000 f.toInt)) →
    ∃ t, steps (ms.length + 2) s = .next t ∧ t.opstate = .idle ∧ t.agenda = rest
      ∧ t.res = a ∧ t.resValid = true ∧ t.relay = decide (10000000 < a.toInt)
      ∧ t.freq = BitVec.ofInt 32
        ((ratioK s.cfg : Int) * (if usb then a.toInt - s.cfg.ifHz else a.toInt + s.cfg.ifHz))
      ∧ t.trace = s.trace ++ writeTrace s.cfg t.freq ++ [(.relay, t.relay)]

/-- R167: a receiver that records at either clock edge recovers exactly the frame from its trace. -/
def Obligations.FrameRecoveredAtEitherEdge : Prop :=
  ∀ (f : Half) (edge : Bool), recoverFrames edge (frameTrace f) = [f]

/-- R161: each atomic step inside a frame drives its one pin, in the order data, clock low, clock high, and the next
lower bit or the end of the frame comes next. That the reader records at the rising clock is log entry 9 (DESIGN
CHOICE; R167), the form of the phase log entry 22 (DESIGN CHOICE). -/
def Obligations.FrameStepsDriveOnePin : Prop :=
  ∀ (s : State) (tr : Transfer) (k : Nat) (i : BitVec 4) (rest : List Move),
    configOk s.cfg = true → s.agenda = .block :: rest →
    (s.opstate = .sending tr (.data k i) →
      step s = .next { s with
        agenda := rest, bitidx := i, sdata := s.shift.getLsbD i.toNat
        trace := s.trace ++ [(.sdata, s.shift.getLsbD i.toNat)], opstate := .sending tr (.clkLow k) })
    ∧ (s.opstate = .sending tr (.clkLow k) →
      step s = .next { s with
        agenda := rest, sclk := false, trace := s.trace ++ [(.sclk, false)], opstate := .sending tr (.clkHigh k) })
    ∧ (s.opstate = .sending tr (.clkHigh k) → s.fsyncN = false → s.sclk = false →
      step s = .next { s with
        agenda := rest, sclk := true, trace := s.trace ++ [(.sclk, true)]
        rx := BitVec.ofNat 16 (s.rx.toNat * 2 + s.sdata.toNat)
        opstate := .sending tr (if s.bitidx = 0 then .fEnd k else .data k (s.bitidx - 1)) })

/-- R181, R182: the final step of TUNE_SETFREQ drives the relay by the strict comparison with 10 MHz, even when the
level does not change (R182), writes `RES` and `RES_VALID` and completes the operation (R181). That the relay has a
step of its own after the last F_END is log entry 13 (DEDUCED), the form of the phase log entry 22 (DESIGN CHOICE). -/
def Obligations.RelayStep : Prop :=
  ∀ (s : State) (a : Word) (rest : List Move),
    configOk s.cfg = true → s.opstate = .relaying a → s.agenda = .block :: rest →
    step s = .next { s with
      agenda := rest, relay := decide (10000000 < a.toInt)
      trace := s.trace ++ [(.relay, decide (10000000 < a.toInt))]
      res := a, resValid := true, opstate := .idle }

/-- R55, R33, R11: a step that is not a reset leaves the trace as it was or appends one event to it. -/
def Obligations.TraceGrowsByAtMostOneEvent : Prop :=
  ∀ s t : State, step s = .next t → s.agenda.head? ≠ some .reset →
    t.trace = s.trace ∨ ∃ e, t.trace = s.trace ++ [e]

/-! ### The encoder -/

/-- R101, R100: with the mask open, a rising edge of `ENC_A` counts at once, by the level of `ENC_B`, wrapping. That
`ENC_B` is read after the same step has set it is log entry 14 (DEDUCED). -/
def Obligations.OpenEdgeCountsAtOnce : Prop :=
  ∀ (s : State) (b n : Option Bool) (rest : List Move),
    configOk s.cfg = true → s.agenda = .env (some true) b n :: rest → s.encALast = false → s.imask = false →
    step s = .next { s with
      agenda := rest, encA := true, encB := b.getD s.encB, btnN := n.getD s.btnN, encALast := true
      acc := if b.getD s.encB then s.acc - 1 else s.acc + 1 }

/-- R101, R25: with the mask set, a rising edge of `ENC_A` only sets `PEND`; a second one is lost. -/
def Obligations.MaskedEdgeIsLatchedOnce : Prop :=
  ∀ (s : State) (b n : Option Bool) (rest : List Move),
    configOk s.cfg = true → s.agenda = .env (some true) b n :: rest → s.encALast = false → s.imask = true →
    step s = .next { s with
      agenda := rest, encA := true, encB := b.getD s.encB, btnN := n.getD s.btnN, encALast := true, pend := true }

/-- R100, R101: falling edges and steady levels of `ENC_A`, and any change of `ENC_B` or `BTN_N`, count nothing. -/
def Obligations.OtherLevelChangesCountNothing : Prop :=
  ∀ (s : State) (a b n : Option Bool) (rest : List Move),
    configOk s.cfg = true → s.agenda = .env a b n :: rest → (s.encALast = true ∨ a.getD s.encA = false) →
    step s = .next { s with
      agenda := rest, encA := a.getD s.encA, encB := b.getD s.encB, btnN := n.getD s.btnN
      encALast := a.getD s.encA }

/-- R102, R161: step F_END restores the mask and, with an edge pending, applies it once by the level of `ENC_B` then. -/
def Obligations.PendingEdgeServicedAtFrameEnd : Prop :=
  ∀ (s : State) (tr : Transfer) (k : Nat) (rest : List Move),
    configOk s.cfg = true → s.opstate = .sending tr (.fEnd k) → s.agenda = .block :: rest → s.imaskSaved = false →
    ∃ t, step s = .next t ∧ t.imask = false ∧ t.pend = false ∧ t.fsyncN = true
      ∧ t.trace = s.trace ++ [(.fsyncN, true)]
      ∧ t.acc = (if s.pend then (if s.encB then s.acc - 1 else s.acc + 1) else s.acc)

/-- R106: between two polls with the mask open, the second poll returns the wrapped difference of the edges applied
with `ENC_B = 0` and with `ENC_B = 1`, whatever moves of the environment bring them about. That an edge sees the
`ENC_B` of its own step is log entry 14 (DEDUCED). -/
def Obligations.NetSumOfEdges : Prop :=
  ∀ (s : State) (opa : Word) (opb : Half) (ms rest : List Move),
    configOk s.cfg = true → Consistent s → s.opstate = .idle → s.acc = 0 → (∀ m ∈ ms, m.outside = true) →
    s.agenda = ms ++ .host ⟨0x1, opa, opb⟩ :: rest →
    ∃ t, steps (ms.length + 1) s = .next t ∧ t.agenda = rest ∧ t.acc = 0 ∧ t.resValid = true
      ∧ t.res = (BitVec.ofInt 16 (netEdges s.encA s.encB ms)).signExtend 32

/-- R105: N rising edges with `ENC_B = 0` and the mask open, then two polls: the first returns N for N up to 32767 and
the wrapped N beyond, the second returns 0. -/
def Obligations.AccumulationLaw : Prop :=
  ∀ (s : State) (n : Nat) (w1 w2 : HostWord) (rest : List Move),
    configOk s.cfg = true → Consistent s → s.opstate = .idle → s.acc = 0 → s.encB = false →
    w1.op = 0x1 → w2.op = 0x1 →
    s.agenda = (List.replicate n [Move.env (some false) none none, Move.env (some true) none none]).flatten
      ++ .host w1 :: .host w2 :: rest →
    (∃ t, steps (2 * n + 1) s = .next t ∧ t.resValid = true ∧ t.acc = 0
      ∧ t.res = (BitVec.ofInt 16 n).signExtend 32 ∧ (n ≤ 32767 → t.res.toInt = n))
    ∧ ∃ t, steps (2 * n + 2) s = .next t ∧ t.resValid = true ∧ t.res = 0 ∧ t.acc = 0

/-! ### The classifier -/

/-- R123, R121: a tick counts down and takes one sample: release, then the encoder, then the budget. -/
def Obligations.TickTakesOneSample : Prop :=
  ∀ (s : State) (rest : List Move),
    configOk s.cfg = true → s.bstate = .bWait → s.agenda = .timer :: rest →
    (s.btnN = true → step s = .next { s with agenda := rest, rem := s.rem - 1, bstate := .bSettle })
    ∧ (s.btnN = false → s.acc ≠ 0 →
      step s = .next { s with
        agenda := rest, rem := s.rem - 1, res := 3, resValid := true, bstate := .bIdle, opstate := .idle })
    ∧ (s.btnN = false → s.acc = 0 → s.rem = 1 →
      step s = .next { s with
        agenda := rest, rem := 0, res := 2, resValid := true, bstate := .bIdle, opstate := .idle })
    ∧ (s.btnN = false → s.acc = 0 → s.rem ≠ 1 → step s = .next { s with agenda := rest, rem := s.rem - 1 })

/-- R124, R211: the settle delay ends in SHORT_PRESS, whatever the button and the accumulator do. With no
classification running the timer has no step; that the listed move is then dropped and the state stays is the model's
choice (log entry 15, DESIGN CHOICE). -/
def Obligations.SettleEndsInShortPress : Prop :=
  ∀ (s : State) (rest : List Move), configOk s.cfg = true → s.agenda = .timer :: rest →
    (s.bstate = .bSettle →
      step s = .next { s with agenda := rest, res := 1, resValid := true, bstate := .bIdle, opstate := .idle })
    ∧ (s.bstate = .bIdle → step s = .next { s with agenda := rest })

/-- R125: a classification completes, whatever the environment does, within `budget` ticks and one settle step. -/
def Obligations.ClassificationTerminates : Prop :=
  ∀ (s : State) (opa : Word) (b : Half) (ms : List Move),
    configOk s.cfg = true → Consistent s → s.opstate = .idle →
    (∀ m ∈ ms, m.outside = true ∨ m = .timer) → b.toNat + 1 ≤ ms.count .timer →
    s.agenda = .host ⟨0x2, opa, b⟩ :: ms →
    ∃ n t, n ≤ ms.length ∧ (ms.take n).count .timer ≤ b.toNat + 1 ∧ steps (n + 1) s = .next t
      ∧ t.opstate = .idle ∧ t.bstate = .bIdle ∧ t.resValid = true ∧ t.res.toNat ≤ 3

/-- R127: held for the whole budget gives LONG_PRESS; released before the budget is used up gives SHORT_PRESS; a turn
before a tick's sample gives INTERRUPTED_BY_ENCODER at that tick and keeps the turn in `ACC` (R122). With a budget of 50
these are the source's examples at 50 ticks, `k = 5` and `k = 2`. -/
def Obligations.ClassifierExamples : Prop :=
  ∀ (s : State) (opa : Word) (b : Half) (k : Nat) (rest : List Move),
    configOk s.cfg = true → s.opstate = .idle → s.bstate = .bIdle → s.imask = false → s.btnN = false → s.acc = 0 →
    (s.agenda = .host ⟨0x2, opa, b⟩ :: (List.replicate b.toNat .timer ++ rest) →
      ∃ t, steps (b.toNat + 1) s = .next t ∧ t.opstate = .idle ∧ t.resValid = true ∧ t.res = 2 ∧ t.rem = 0)
    ∧ (k < b.toNat →
      s.agenda = .host ⟨0x2, opa, b⟩ ::
        (List.replicate k .timer ++ .env none none (some true) :: .timer :: .timer :: rest) →
      ∃ t, steps (k + 4) s = .next t ∧ t.opstate = .idle ∧ t.resValid = true ∧ t.res = 1
        ∧ t.rem.toNat = b.toNat - (k + 1))
    ∧ (k < b.toNat →
      s.agenda = .host ⟨0x2, opa, b⟩ ::
        (List.replicate k .timer ++
          .env (some false) (some false) none :: .env (some true) none none :: .timer :: rest) →
      ∃ t, steps (k + 4) s = .next t ∧ t.opstate = .idle ∧ t.resValid = true ∧ t.res = 3
        ∧ t.acc = 1 ∧ t.rem.toNat = b.toNat - (k + 1))

/-! ### The frequency model -/

/-- R141: under the constraints of R8, `K` is the nearest integer to `2^32 / REF_CLK_HZ`, a tie never occurs, and `K`
lies in [1, 2^31]. -/
def Obligations.RatioIsTheNearestInteger : Prop :=
  ∀ c : Config, configOk c = true →
    ratioK c = (2 ^ 33 + c.refClkHz) / (2 * c.refClkHz) ∧ 1 ≤ ratioK c ∧ ratioK c ≤ 2 ^ 31
      ∧ 2 * (c.refClkHz * ratioK c) < 2 ^ 33 + c.refClkHz ∧ 2 ^ 33 < 2 * (c.refClkHz * ratioK c) + c.refClkHz

/-- R147: the eight-digit loop gives `wrap32(K · tmod(v, 10^8))` for every `s32`, and `wrap32(K · v)` for
`|v| < 10^8`; under R8 every VFO frequency of a clamped receive frequency is of the second kind. -/
def Obligations.TuningWordClosedForm : Prop :=
  (∀ (c : Config) (v : Int), -(2 ^ 31) ≤ v → v < 2 ^ 31 →
    tword c v = BitVec.ofInt 32 ((ratioK c : Int) * v.tmod (10 ^ 8))
      ∧ (-(10 ^ 8) < v → v < 10 ^ 8 → tword c v = BitVec.ofInt 32 ((ratioK c : Int) * v)))
  ∧ ∀ (c : Config) (f : Int) (usb : Bool), configOk c = true →
    |(vfo c (clamp f) usb).toInt| ≤ 20000000 + 79999999
      ∧ tword c (vfo c (clamp f) usb).toInt = BitVec.ofInt 32 ((ratioK c : Int) * (vfo c (clamp f) usb).toInt)

/-- R148: below the wrap point the word does not decrease with the frequency. -/
def Obligations.TuningWordMonotone : Prop :=
  ∀ (c : Config) (v1 v2 : Int), 0 ≤ v1 → v1 ≤ v2 → v2 < 10 ^ 8 → (ratioK c : Int) * v2 < 2 ^ 32 →
    (tword c v1).toNat ≤ (tword c v2).toNat

/-- R149: the offsets of the two sidebands undo each other. -/
def Obligations.IfOffsetRoundTrip : Prop :=
  ∀ (c : Config) (f : Int), |f| + c.ifHz < 2 ^ 31 →
    (vfo c f true).toInt + c.ifHz = f ∧ (vfo c f false).toInt - c.ifHz = f

/-- R143: the clamp keeps a frequency of the range, and takes the nearer end otherwise. -/
def Obligations.ClampKeepsTheRange : Prop :=
  ∀ f : Int,
    (f < 100000 → clamp f = 100000) ∧ (20000000 < f → clamp f = 20000000)
      ∧ (100000 ≤ f → f ≤ 20000000 → clamp f = f)

/-! ### Reset, marks and the whole machine -/

/-- R104 and the facts of `Consistent`: every step keeps them, from every state that has them, whatever the moves. The
form of `OPSTATE` in them is log entry 22 (DESIGN CHOICE). That the refusal mark holds `BadConfiguration` exactly for
a configuration that breaks R8 (R205) is log entry 12 (DEDUCED), with R8's tag constraint read as log entry 5
(DEDUCED) says. -/
def Obligations.EveryStepKeepsConsistency : Prop :=
  ∀ s t : State, Consistent s → step s = .next t → Consistent t

/-- R39, R104, R220: the state after reset is consistent, under every configuration and for all input levels. For a
configuration that breaks R8 this says that the state of `State.resetOf` carries `BadConfiguration` in its refusal
mark, where R220 empties the mark and R205 refuses the whole model before reset: the model's reading of the two is log
entry 12 (DEDUCED), with R8's tag constraint read as log entry 5 (DEDUCED) says. The configuration and the input
levels of `State.reset` are log entries 4 and 8 (DESIGN CHOICE). -/
def Obligations.ResetIsConsistent : Prop :=
  Consistent State.reset
    ∧ ∀ (c : Config) (a b n : Bool) (draw : Nat) (ms : List Move), Consistent (State.resetOf c a b n draw ms)

/-- R39, R220, R142: the reset values the spec's table gives, the empty marks, and `COEF`, whatever the configuration
and the input levels. It says nothing of the registers that R39 leaves unspecified (log entry 7). Under a
configuration that breaks R8 the whole model is refused (R205), and its refusal mark says so: log entry 12 (DEDUCED),
with R8's tag constraint read as log entry 5 (DEDUCED) says. -/
def Obligations.ResetValues : Prop :=
  ∀ (c : Config) (a b n : Bool) (draw : Nat) (ms : List Move) (s : State), s = State.resetOf c a b n draw ms →
    s.acc = 0 ∧ s.imask = false ∧ s.pend = false ∧ s.encALast = a
      ∧ s.fsyncN = true ∧ s.sclk = true ∧ s.sdata = false ∧ s.relay = false
      ∧ s.resValid = false ∧ s.opstate = .idle ∧ s.bstate = .bIdle
      ∧ s.trace = [] ∧ s.ddsReady = false ∧ s.fault = ⟨false, false⟩
      ∧ s.refusals = ⟨false, false, !configOk c⟩
      ∧ ∀ k, (coef s.cfg k).toNat = ratioK c * 10 ^ k % 2 ^ 32

/-- R222, R220: a reset that arrives at any moment abandons the operation in progress and leaves the reset state. The
equality takes in the model's own values of that state: 0 in `OP`, `OPA`, `OPB`, `RES`, `IMASK_SAVED`, `SHIFT`,
`BITIDX`, `FRAME` and `REM`, which R39 leaves unspecified (log entry 7, DESIGN CHOICE, unsafe); no values read (log
entry 19, DESIGN CHOICE); an empty record and free `STAGE` and `FREQ` of the chip reader (log entries 9 and 10, DESIGN
CHOICE); and that the input levels, the configuration and the moves to come stay (log entry 18, DEDUCED). -/
def Obligations.ResetAbandonsTheOperation : Prop :=
  ∀ (s : State) (rest : List Move), configOk s.cfg = true → s.agenda = .reset :: rest →
    ∃ m, step s = .next (State.resetOf s.cfg s.encA s.encB s.btnN m rest)

/-- R202: no step but a reset removes a reason from `FAULT`. -/
def Obligations.FaultMarkOnlyGrows : Prop :=
  ∀ (s t : State) (r : Fault), step s = .next t → s.agenda.head? ≠ some .reset →
    s.fault.has r = true → t.fault.has r = true

/-- R205, R220: no step but a reset removes a reason from the refusal mark (that reset empties it: R220). The form of
the mark, and that it stands in the state with `BadConfiguration` among its reasons, is log entry 12 (DEDUCED). -/
def Obligations.RefusalMarkOnlyGrows : Prop :=
  ∀ s t : State, step s = .next t → s.agenda.head? ≠ some .reset →
    (s.refusals.reservedOp = true → t.refusals.reservedOp = true)
      ∧ (s.refusals.reservedOperandBits = true → t.refusals.reservedOperandBits = true)
      ∧ (s.refusals.badConfiguration = true → t.refusals.badConfiguration = true)

/-- R203, R215, R234: reading `RES` gives its value while `RES_VALID = 1`, and otherwise marks `ResultNotValid` and
gives none. That a value read joins the field `reads`, the model's form of R234's sequence of values read, is log
entry 19 (DESIGN CHOICE). -/
def Obligations.ReadOfResult : Prop :=
  ∀ (s : State) (rest : List Move), configOk s.cfg = true → s.agenda = .readRes :: rest →
    (s.resValid = true → step s = .next { s with agenda := rest, reads := s.reads ++ [s.res] })
    ∧ (s.resValid = false →
      step s = .next { s with agenda := rest, fault := { s.fault with resultNotValid := true } })

/-- R200, R202, R206: under a well-formed configuration every step answers a next state: no ordinary data, no fault
mark, no hold and no refused operation stops the machine. The interface's `next` covers more than R201's next state.
Where R201 lists a refusal, with no step taken, the machine answers a next state that records it (log entry 12,
DEDUCED); a fault is a mark in the next state (log entry 11, DEDUCED); an idle block with no move listed answers the
same state (log entry 3, DESIGN CHOICE); and a listed timer or block move that is not enabled is dropped (log entry
15, DESIGN CHOICE). -/
def Obligations.MachineNeverStops : Prop :=
  ∀ s : State, configOk s.cfg = true → ∃ t, step s = .next t

/-- R20, R36, R38, R140: no step changes the configuration, so `COEF` is what it was (the configuration stands in the
state: log entry 4, DESIGN CHOICE); only the environment sets the input pins (R27; that a reset leaves them: log entry
18, DEDUCED). -/
def Obligations.ConfigurationAndInputsAreNotWritten : Prop :=
  ∀ s t : State, step s = .next t →
    t.cfg = s.cfg ∧ (∀ k, coef t.cfg k = coef s.cfg k)
      ∧ ((∀ a b n rest, s.agenda ≠ .env a b n :: rest) → t.encA = s.encA ∧ t.encB = s.encB ∧ t.btnN = s.btnN)

/-- R29, R182: the relay changes only in TUNE_SETFREQ's final step, or at reset. -/
def Obligations.RelayWrittenOnlyByTuning : Prop :=
  ∀ s t : State, step s = .next t → t.relay ≠ s.relay →
    (∃ a, s.opstate = .relaying a) ∨ s.agenda.head? = some .reset

/-- R34, R166: `DDS_READY` is set only in the last step of DDS_INIT's last frame. -/
def Obligations.ReadySetOnlyByInit : Prop :=
  ∀ s t : State, step s = .next t → s.ddsReady = false → t.ddsReady = true →
    ∃ k, 5 ≤ k ∧ s.opstate = .sending .init (.fEnd k)

/-- R22, R54: `ACC` changes only in an environment step, in the step that ends a frame, in a poll, or at reset. -/
def Obligations.AccumulatorWriters : Prop :=
  ∀ s t : State, step s = .next t → t.acc ≠ s.acc →
    (∃ a b n rest, s.agenda = .env a b n :: rest)
      ∨ (∃ tr k, s.opstate = .sending tr (.fEnd k))
      ∨ (∃ w rest, s.agenda = .host w :: rest ∧ s.opstate = .idle ∧ w.op = 0x1)
      ∨ s.agenda.head? = some .reset

/-- R57, R104: while a frame is in progress and does not end, no step but a reset changes `ACC`. -/
def Obligations.AccumulatorHeldWithinAFrame : Prop :=
  ∀ s t : State, Consistent s → step s = .next t → inFrame s.opstate = true → inFrame t.opstate = true →
    s.agenda.head? ≠ some .reset → t.acc = s.acc

/-- The model's choice of log entry 3 (DESIGN CHOICE): a successful end (R234) with no move to come is a state the
machine waits in. That a successful end asks for a configuration that meets R8 is log entry 12 (DEDUCED), with R8's
tag constraint read as log entry 5 (DEDUCED) says. -/
def Obligations.SuccessfulEndIsStable : Prop :=
  ∀ s : State, successfulEnd s = true → s.agenda = [] → step s = .next s
end

