-- ==== Sys2Proof/Laws/State.lean ====
section
/-! SUPPORT. What each update of the state leaves in each field: one lemma per field per update. -/

namespace Sys2Proof.Machine

/-! ### `State.beginOp` -/

@[simp] theorem State.beginOp_acc (s : State) : s.beginOp.acc = s.acc := rfl
@[simp] theorem State.beginOp_imask (s : State) : s.beginOp.imask = s.imask := rfl
@[simp] theorem State.beginOp_imaskSaved (s : State) : s.beginOp.imaskSaved = s.imaskSaved := rfl
@[simp] theorem State.beginOp_pend (s : State) : s.beginOp.pend = s.pend := rfl
@[simp] theorem State.beginOp_encALast (s : State) : s.beginOp.encALast = s.encALast := rfl
@[simp] theorem State.beginOp_fsyncN (s : State) : s.beginOp.fsyncN = s.fsyncN := rfl
@[simp] theorem State.beginOp_sclk (s : State) : s.beginOp.sclk = s.sclk := rfl
@[simp] theorem State.beginOp_sdata (s : State) : s.beginOp.sdata = s.sdata := rfl
@[simp] theorem State.beginOp_relay (s : State) : s.beginOp.relay = s.relay := rfl
@[simp] theorem State.beginOp_op (s : State) : s.beginOp.op = s.op := rfl
@[simp] theorem State.beginOp_opa (s : State) : s.beginOp.opa = s.opa := rfl
@[simp] theorem State.beginOp_opb (s : State) : s.beginOp.opb = s.opb := rfl
@[simp] theorem State.beginOp_res (s : State) : s.beginOp.res = s.res := rfl
@[simp] theorem State.beginOp_resValid (s : State) : s.beginOp.resValid = false := rfl
@[simp] theorem State.beginOp_opstate (s : State) : s.beginOp.opstate = s.opstate := rfl
@[simp] theorem State.beginOp_bstate (s : State) : s.beginOp.bstate = s.bstate := rfl
@[simp] theorem State.beginOp_rem (s : State) : s.beginOp.rem = s.rem := rfl
@[simp] theorem State.beginOp_shift (s : State) : s.beginOp.shift = s.shift := rfl
@[simp] theorem State.beginOp_bitidx (s : State) : s.beginOp.bitidx = s.bitidx := rfl
@[simp] theorem State.beginOp_frame (s : State) : s.beginOp.frame = s.frame := rfl
@[simp] theorem State.beginOp_trace (s : State) : s.beginOp.trace = s.trace := rfl
@[simp] theorem State.beginOp_ddsReady (s : State) : s.beginOp.ddsReady = s.ddsReady := rfl
@[simp] theorem State.beginOp_fault (s : State) : s.beginOp.fault = s.fault := rfl
@[simp] theorem State.beginOp_refusals (s : State) : s.beginOp.refusals = s.refusals := rfl
@[simp] theorem State.beginOp_reads (s : State) : s.beginOp.reads = s.reads := rfl
@[simp] theorem State.beginOp_stage (s : State) : s.beginOp.stage = s.stage := rfl
@[simp] theorem State.beginOp_freq (s : State) : s.beginOp.freq = s.freq := rfl
@[simp] theorem State.beginOp_rx (s : State) : s.beginOp.rx = s.rx := rfl
@[simp] theorem State.beginOp_draws (s : State) : s.beginOp.draws = s.draws := rfl
@[simp] theorem State.beginOp_encA (s : State) : s.beginOp.encA = s.encA := rfl
@[simp] theorem State.beginOp_encB (s : State) : s.beginOp.encB = s.encB := rfl
@[simp] theorem State.beginOp_btnN (s : State) : s.beginOp.btnN = s.btnN := rfl
@[simp] theorem State.beginOp_cfg (s : State) : s.beginOp.cfg = s.cfg := rfl
@[simp] theorem State.beginOp_agenda (s : State) : s.beginOp.agenda = s.agenda := rfl

/-! ### `State.finishWith` -/

@[simp] theorem State.finishWith_acc (r : Word) (s : State) : (s.finishWith r).acc = s.acc := rfl
@[simp] theorem State.finishWith_imask (r : Word) (s : State) : (s.finishWith r).imask = s.imask := rfl
@[simp] theorem State.finishWith_imaskSaved (r : Word) (s : State) : (s.finishWith r).imaskSaved = s.imaskSaved := rfl
@[simp] theorem State.finishWith_pend (r : Word) (s : State) : (s.finishWith r).pend = s.pend := rfl
@[simp] theorem State.finishWith_encALast (r : Word) (s : State) : (s.finishWith r).encALast = s.encALast := rfl
@[simp] theorem State.finishWith_fsyncN (r : Word) (s : State) : (s.finishWith r).fsyncN = s.fsyncN := rfl
@[simp] theorem State.finishWith_sclk (r : Word) (s : State) : (s.finishWith r).sclk = s.sclk := rfl
@[simp] theorem State.finishWith_sdata (r : Word) (s : State) : (s.finishWith r).sdata = s.sdata := rfl
@[simp] theorem State.finishWith_relay (r : Word) (s : State) : (s.finishWith r).relay = s.relay := rfl
@[simp] theorem State.finishWith_op (r : Word) (s : State) : (s.finishWith r).op = s.op := rfl
@[simp] theorem State.finishWith_opa (r : Word) (s : State) : (s.finishWith r).opa = s.opa := rfl
@[simp] theorem State.finishWith_opb (r : Word) (s : State) : (s.finishWith r).opb = s.opb := rfl
@[simp] theorem State.finishWith_res (r : Word) (s : State) : (s.finishWith r).res = r := rfl
@[simp] theorem State.finishWith_resValid (r : Word) (s : State) : (s.finishWith r).resValid = true := rfl
@[simp] theorem State.finishWith_opstate (r : Word) (s : State) : (s.finishWith r).opstate = .idle := rfl
@[simp] theorem State.finishWith_bstate (r : Word) (s : State) : (s.finishWith r).bstate = s.bstate := rfl
@[simp] theorem State.finishWith_rem (r : Word) (s : State) : (s.finishWith r).rem = s.rem := rfl
@[simp] theorem State.finishWith_shift (r : Word) (s : State) : (s.finishWith r).shift = s.shift := rfl
@[simp] theorem State.finishWith_bitidx (r : Word) (s : State) : (s.finishWith r).bitidx = s.bitidx := rfl
@[simp] theorem State.finishWith_frame (r : Word) (s : State) : (s.finishWith r).frame = s.frame := rfl
@[simp] theorem State.finishWith_trace (r : Word) (s : State) : (s.finishWith r).trace = s.trace := rfl
@[simp] theorem State.finishWith_ddsReady (r : Word) (s : State) : (s.finishWith r).ddsReady = s.ddsReady := rfl
@[simp] theorem State.finishWith_fault (r : Word) (s : State) : (s.finishWith r).fault = s.fault := rfl
@[simp] theorem State.finishWith_refusals (r : Word) (s : State) : (s.finishWith r).refusals = s.refusals := rfl
@[simp] theorem State.finishWith_reads (r : Word) (s : State) : (s.finishWith r).reads = s.reads := rfl
@[simp] theorem State.finishWith_stage (r : Word) (s : State) : (s.finishWith r).stage = s.stage := rfl
@[simp] theorem State.finishWith_freq (r : Word) (s : State) : (s.finishWith r).freq = s.freq := rfl
@[simp] theorem State.finishWith_rx (r : Word) (s : State) : (s.finishWith r).rx = s.rx := rfl
@[simp] theorem State.finishWith_draws (r : Word) (s : State) : (s.finishWith r).draws = s.draws := rfl
@[simp] theorem State.finishWith_encA (r : Word) (s : State) : (s.finishWith r).encA = s.encA := rfl
@[simp] theorem State.finishWith_encB (r : Word) (s : State) : (s.finishWith r).encB = s.encB := rfl
@[simp] theorem State.finishWith_btnN (r : Word) (s : State) : (s.finishWith r).btnN = s.btnN := rfl
@[simp] theorem State.finishWith_cfg (r : Word) (s : State) : (s.finishWith r).cfg = s.cfg := rfl
@[simp] theorem State.finishWith_agenda (r : Word) (s : State) : (s.finishWith r).agenda = s.agenda := rfl

/-! ### `State.finishSilent` -/

@[simp] theorem State.finishSilent_acc (s : State) : s.finishSilent.acc = s.acc := rfl
@[simp] theorem State.finishSilent_imask (s : State) : s.finishSilent.imask = s.imask := rfl
@[simp] theorem State.finishSilent_imaskSaved (s : State) : s.finishSilent.imaskSaved = s.imaskSaved := rfl
@[simp] theorem State.finishSilent_pend (s : State) : s.finishSilent.pend = s.pend := rfl
@[simp] theorem State.finishSilent_encALast (s : State) : s.finishSilent.encALast = s.encALast := rfl
@[simp] theorem State.finishSilent_fsyncN (s : State) : s.finishSilent.fsyncN = s.fsyncN := rfl
@[simp] theorem State.finishSilent_sclk (s : State) : s.finishSilent.sclk = s.sclk := rfl
@[simp] theorem State.finishSilent_sdata (s : State) : s.finishSilent.sdata = s.sdata := rfl
@[simp] theorem State.finishSilent_relay (s : State) : s.finishSilent.relay = s.relay := rfl
@[simp] theorem State.finishSilent_op (s : State) : s.finishSilent.op = s.op := rfl
@[simp] theorem State.finishSilent_opa (s : State) : s.finishSilent.opa = s.opa := rfl
@[simp] theorem State.finishSilent_opb (s : State) : s.finishSilent.opb = s.opb := rfl
@[simp] theorem State.finishSilent_res (s : State) : s.finishSilent.res = s.res := rfl
@[simp] theorem State.finishSilent_resValid (s : State) : s.finishSilent.resValid = s.resValid := rfl
@[simp] theorem State.finishSilent_opstate (s : State) : s.finishSilent.opstate = .idle := rfl
@[simp] theorem State.finishSilent_bstate (s : State) : s.finishSilent.bstate = s.bstate := rfl
@[simp] theorem State.finishSilent_rem (s : State) : s.finishSilent.rem = s.rem := rfl
@[simp] theorem State.finishSilent_shift (s : State) : s.finishSilent.shift = s.shift := rfl
@[simp] theorem State.finishSilent_bitidx (s : State) : s.finishSilent.bitidx = s.bitidx := rfl
@[simp] theorem State.finishSilent_frame (s : State) : s.finishSilent.frame = s.frame := rfl
@[simp] theorem State.finishSilent_trace (s : State) : s.finishSilent.trace = s.trace := rfl
@[simp] theorem State.finishSilent_ddsReady (s : State) : s.finishSilent.ddsReady = s.ddsReady := rfl
@[simp] theorem State.finishSilent_fault (s : State) : s.finishSilent.fault = s.fault := rfl
@[simp] theorem State.finishSilent_refusals (s : State) : s.finishSilent.refusals = s.refusals := rfl
@[simp] theorem State.finishSilent_reads (s : State) : s.finishSilent.reads = s.reads := rfl
@[simp] theorem State.finishSilent_stage (s : State) : s.finishSilent.stage = s.stage := rfl
@[simp] theorem State.finishSilent_freq (s : State) : s.finishSilent.freq = s.freq := rfl
@[simp] theorem State.finishSilent_rx (s : State) : s.finishSilent.rx = s.rx := rfl
@[simp] theorem State.finishSilent_draws (s : State) : s.finishSilent.draws = s.draws := rfl
@[simp] theorem State.finishSilent_encA (s : State) : s.finishSilent.encA = s.encA := rfl
@[simp] theorem State.finishSilent_encB (s : State) : s.finishSilent.encB = s.encB := rfl
@[simp] theorem State.finishSilent_btnN (s : State) : s.finishSilent.btnN = s.btnN := rfl
@[simp] theorem State.finishSilent_cfg (s : State) : s.finishSilent.cfg = s.cfg := rfl
@[simp] theorem State.finishSilent_agenda (s : State) : s.finishSilent.agenda = s.agenda := rfl

/-! ### `State.recordReservedOp` -/

@[simp] theorem State.recordReservedOp_acc (s : State) : s.recordReservedOp.acc = s.acc := rfl
@[simp] theorem State.recordReservedOp_imask (s : State) : s.recordReservedOp.imask = s.imask := rfl
@[simp] theorem State.recordReservedOp_imaskSaved (s : State) : s.recordReservedOp.imaskSaved = s.imaskSaved := rfl
@[simp] theorem State.recordReservedOp_pend (s : State) : s.recordReservedOp.pend = s.pend := rfl
@[simp] theorem State.recordReservedOp_encALast (s : State) : s.recordReservedOp.encALast = s.encALast := rfl
@[simp] theorem State.recordReservedOp_fsyncN (s : State) : s.recordReservedOp.fsyncN = s.fsyncN := rfl
@[simp] theorem State.recordReservedOp_sclk (s : State) : s.recordReservedOp.sclk = s.sclk := rfl
@[simp] theorem State.recordReservedOp_sdata (s : State) : s.recordReservedOp.sdata = s.sdata := rfl
@[simp] theorem State.recordReservedOp_relay (s : State) : s.recordReservedOp.relay = s.relay := rfl
@[simp] theorem State.recordReservedOp_op (s : State) : s.recordReservedOp.op = s.op := rfl
@[simp] theorem State.recordReservedOp_opa (s : State) : s.recordReservedOp.opa = s.opa := rfl
@[simp] theorem State.recordReservedOp_opb (s : State) : s.recordReservedOp.opb = s.opb := rfl
@[simp] theorem State.recordReservedOp_res (s : State) : s.recordReservedOp.res = s.res := rfl
@[simp] theorem State.recordReservedOp_resValid (s : State) : s.recordReservedOp.resValid = s.resValid := rfl
@[simp] theorem State.recordReservedOp_opstate (s : State) : s.recordReservedOp.opstate = s.opstate := rfl
@[simp] theorem State.recordReservedOp_bstate (s : State) : s.recordReservedOp.bstate = s.bstate := rfl
@[simp] theorem State.recordReservedOp_rem (s : State) : s.recordReservedOp.rem = s.rem := rfl
@[simp] theorem State.recordReservedOp_shift (s : State) : s.recordReservedOp.shift = s.shift := rfl
@[simp] theorem State.recordReservedOp_bitidx (s : State) : s.recordReservedOp.bitidx = s.bitidx := rfl
@[simp] theorem State.recordReservedOp_frame (s : State) : s.recordReservedOp.frame = s.frame := rfl
@[simp] theorem State.recordReservedOp_trace (s : State) : s.recordReservedOp.trace = s.trace := rfl
@[simp] theorem State.recordReservedOp_ddsReady (s : State) : s.recordReservedOp.ddsReady = s.ddsReady := rfl
@[simp] theorem State.recordReservedOp_fault (s : State) : s.recordReservedOp.fault = s.fault := rfl
@[simp] theorem State.recordReservedOp_refusals (s : State) : s.recordReservedOp.refusals = { s.refusals with reservedOp := true } := rfl
@[simp] theorem State.recordReservedOp_reads (s : State) : s.recordReservedOp.reads = s.reads := rfl
@[simp] theorem State.recordReservedOp_stage (s : State) : s.recordReservedOp.stage = s.stage := rfl
@[simp] theorem State.recordReservedOp_freq (s : State) : s.recordReservedOp.freq = s.freq := rfl
@[simp] theorem State.recordReservedOp_rx (s : State) : s.recordReservedOp.rx = s.rx := rfl
@[simp] theorem State.recordReservedOp_draws (s : State) : s.recordReservedOp.draws = s.draws := rfl
@[simp] theorem State.recordReservedOp_encA (s : State) : s.recordReservedOp.encA = s.encA := rfl
@[simp] theorem State.recordReservedOp_encB (s : State) : s.recordReservedOp.encB = s.encB := rfl
@[simp] theorem State.recordReservedOp_btnN (s : State) : s.recordReservedOp.btnN = s.btnN := rfl
@[simp] theorem State.recordReservedOp_cfg (s : State) : s.recordReservedOp.cfg = s.cfg := rfl
@[simp] theorem State.recordReservedOp_agenda (s : State) : s.recordReservedOp.agenda = s.agenda := rfl

/-! ### `State.recordReservedBits` -/

@[simp] theorem State.recordReservedBits_acc (s : State) : s.recordReservedBits.acc = s.acc := rfl
@[simp] theorem State.recordReservedBits_imask (s : State) : s.recordReservedBits.imask = s.imask := rfl
@[simp] theorem State.recordReservedBits_imaskSaved (s : State) : s.recordReservedBits.imaskSaved = s.imaskSaved := rfl
@[simp] theorem State.recordReservedBits_pend (s : State) : s.recordReservedBits.pend = s.pend := rfl
@[simp] theorem State.recordReservedBits_encALast (s : State) : s.recordReservedBits.encALast = s.encALast := rfl
@[simp] theorem State.recordReservedBits_fsyncN (s : State) : s.recordReservedBits.fsyncN = s.fsyncN := rfl
@[simp] theorem State.recordReservedBits_sclk (s : State) : s.recordReservedBits.sclk = s.sclk := rfl
@[simp] theorem State.recordReservedBits_sdata (s : State) : s.recordReservedBits.sdata = s.sdata := rfl
@[simp] theorem State.recordReservedBits_relay (s : State) : s.recordReservedBits.relay = s.relay := rfl
@[simp] theorem State.recordReservedBits_op (s : State) : s.recordReservedBits.op = s.op := rfl
@[simp] theorem State.recordReservedBits_opa (s : State) : s.recordReservedBits.opa = s.opa := rfl
@[simp] theorem State.recordReservedBits_opb (s : State) : s.recordReservedBits.opb = s.opb := rfl
@[simp] theorem State.recordReservedBits_res (s : State) : s.recordReservedBits.res = s.res := rfl
@[simp] theorem State.recordReservedBits_resValid (s : State) : s.recordReservedBits.resValid = s.resValid := rfl
@[simp] theorem State.recordReservedBits_opstate (s : State) : s.recordReservedBits.opstate = s.opstate := rfl
@[simp] theorem State.recordReservedBits_bstate (s : State) : s.recordReservedBits.bstate = s.bstate := rfl
@[simp] theorem State.recordReservedBits_rem (s : State) : s.recordReservedBits.rem = s.rem := rfl
@[simp] theorem State.recordReservedBits_shift (s : State) : s.recordReservedBits.shift = s.shift := rfl
@[simp] theorem State.recordReservedBits_bitidx (s : State) : s.recordReservedBits.bitidx = s.bitidx := rfl
@[simp] theorem State.recordReservedBits_frame (s : State) : s.recordReservedBits.frame = s.frame := rfl
@[simp] theorem State.recordReservedBits_trace (s : State) : s.recordReservedBits.trace = s.trace := rfl
@[simp] theorem State.recordReservedBits_ddsReady (s : State) : s.recordReservedBits.ddsReady = s.ddsReady := rfl
@[simp] theorem State.recordReservedBits_fault (s : State) : s.recordReservedBits.fault = s.fault := rfl
@[simp] theorem State.recordReservedBits_refusals (s : State) : s.recordReservedBits.refusals = { s.refusals with reservedOperandBits := true } := rfl
@[simp] theorem State.recordReservedBits_reads (s : State) : s.recordReservedBits.reads = s.reads := rfl
@[simp] theorem State.recordReservedBits_stage (s : State) : s.recordReservedBits.stage = s.stage := rfl
@[simp] theorem State.recordReservedBits_freq (s : State) : s.recordReservedBits.freq = s.freq := rfl
@[simp] theorem State.recordReservedBits_rx (s : State) : s.recordReservedBits.rx = s.rx := rfl
@[simp] theorem State.recordReservedBits_draws (s : State) : s.recordReservedBits.draws = s.draws := rfl
@[simp] theorem State.recordReservedBits_encA (s : State) : s.recordReservedBits.encA = s.encA := rfl
@[simp] theorem State.recordReservedBits_encB (s : State) : s.recordReservedBits.encB = s.encB := rfl
@[simp] theorem State.recordReservedBits_btnN (s : State) : s.recordReservedBits.btnN = s.btnN := rfl
@[simp] theorem State.recordReservedBits_cfg (s : State) : s.recordReservedBits.cfg = s.cfg := rfl
@[simp] theorem State.recordReservedBits_agenda (s : State) : s.recordReservedBits.agenda = s.agenda := rfl

/-! ### `State.logPin` -/

@[simp] theorem State.logPin_acc (p : Pin) (b : Bool) (s : State) : (s.logPin p b).acc = s.acc := rfl
@[simp] theorem State.logPin_imask (p : Pin) (b : Bool) (s : State) : (s.logPin p b).imask = s.imask := rfl
@[simp] theorem State.logPin_imaskSaved (p : Pin) (b : Bool) (s : State) : (s.logPin p b).imaskSaved = s.imaskSaved := rfl
@[simp] theorem State.logPin_pend (p : Pin) (b : Bool) (s : State) : (s.logPin p b).pend = s.pend := rfl
@[simp] theorem State.logPin_encALast (p : Pin) (b : Bool) (s : State) : (s.logPin p b).encALast = s.encALast := rfl
@[simp] theorem State.logPin_fsyncN (p : Pin) (b : Bool) (s : State) : (s.logPin p b).fsyncN = s.fsyncN := rfl
@[simp] theorem State.logPin_sclk (p : Pin) (b : Bool) (s : State) : (s.logPin p b).sclk = s.sclk := rfl
@[simp] theorem State.logPin_sdata (p : Pin) (b : Bool) (s : State) : (s.logPin p b).sdata = s.sdata := rfl
@[simp] theorem State.logPin_relay (p : Pin) (b : Bool) (s : State) : (s.logPin p b).relay = s.relay := rfl
@[simp] theorem State.logPin_op (p : Pin) (b : Bool) (s : State) : (s.logPin p b).op = s.op := rfl
@[simp] theorem State.logPin_opa (p : Pin) (b : Bool) (s : State) : (s.logPin p b).opa = s.opa := rfl
@[simp] theorem State.logPin_opb (p : Pin) (b : Bool) (s : State) : (s.logPin p b).opb = s.opb := rfl
@[simp] theorem State.logPin_res (p : Pin) (b : Bool) (s : State) : (s.logPin p b).res = s.res := rfl
@[simp] theorem State.logPin_resValid (p : Pin) (b : Bool) (s : State) : (s.logPin p b).resValid = s.resValid := rfl
@[simp] theorem State.logPin_opstate (p : Pin) (b : Bool) (s : State) : (s.logPin p b).opstate = s.opstate := rfl
@[simp] theorem State.logPin_bstate (p : Pin) (b : Bool) (s : State) : (s.logPin p b).bstate = s.bstate := rfl
@[simp] theorem State.logPin_rem (p : Pin) (b : Bool) (s : State) : (s.logPin p b).rem = s.rem := rfl
@[simp] theorem State.logPin_shift (p : Pin) (b : Bool) (s : State) : (s.logPin p b).shift = s.shift := rfl
@[simp] theorem State.logPin_bitidx (p : Pin) (b : Bool) (s : State) : (s.logPin p b).bitidx = s.bitidx := rfl
@[simp] theorem State.logPin_frame (p : Pin) (b : Bool) (s : State) : (s.logPin p b).frame = s.frame := rfl
@[simp] theorem State.logPin_trace (p : Pin) (b : Bool) (s : State) : (s.logPin p b).trace = s.trace ++ [(p, b)] := rfl
@[simp] theorem State.logPin_ddsReady (p : Pin) (b : Bool) (s : State) : (s.logPin p b).ddsReady = s.ddsReady := rfl
@[simp] theorem State.logPin_fault (p : Pin) (b : Bool) (s : State) : (s.logPin p b).fault = s.fault := rfl
@[simp] theorem State.logPin_refusals (p : Pin) (b : Bool) (s : State) : (s.logPin p b).refusals = s.refusals := rfl
@[simp] theorem State.logPin_reads (p : Pin) (b : Bool) (s : State) : (s.logPin p b).reads = s.reads := rfl
@[simp] theorem State.logPin_stage (p : Pin) (b : Bool) (s : State) : (s.logPin p b).stage = s.stage := rfl
@[simp] theorem State.logPin_freq (p : Pin) (b : Bool) (s : State) : (s.logPin p b).freq = s.freq := rfl
@[simp] theorem State.logPin_rx (p : Pin) (b : Bool) (s : State) : (s.logPin p b).rx = s.rx := rfl
@[simp] theorem State.logPin_draws (p : Pin) (b : Bool) (s : State) : (s.logPin p b).draws = s.draws := rfl
@[simp] theorem State.logPin_encA (p : Pin) (b : Bool) (s : State) : (s.logPin p b).encA = s.encA := rfl
@[simp] theorem State.logPin_encB (p : Pin) (b : Bool) (s : State) : (s.logPin p b).encB = s.encB := rfl
@[simp] theorem State.logPin_btnN (p : Pin) (b : Bool) (s : State) : (s.logPin p b).btnN = s.btnN := rfl
@[simp] theorem State.logPin_cfg (p : Pin) (b : Bool) (s : State) : (s.logPin p b).cfg = s.cfg := rfl
@[simp] theorem State.logPin_agenda (p : Pin) (b : Bool) (s : State) : (s.logPin p b).agenda = s.agenda := rfl

/-! ### `State.applyEdge` -/

@[simp] theorem State.applyEdge_acc (s : State) : s.applyEdge.acc = if s.encB then swrap16 (asS16 s.acc - 1) else swrap16 (asS16 s.acc + 1) := rfl
@[simp] theorem State.applyEdge_imask (s : State) : s.applyEdge.imask = s.imask := rfl
@[simp] theorem State.applyEdge_imaskSaved (s : State) : s.applyEdge.imaskSaved = s.imaskSaved := rfl
@[simp] theorem State.applyEdge_pend (s : State) : s.applyEdge.pend = s.pend := rfl
@[simp] theorem State.applyEdge_encALast (s : State) : s.applyEdge.encALast = s.encALast := rfl
@[simp] theorem State.applyEdge_fsyncN (s : State) : s.applyEdge.fsyncN = s.fsyncN := rfl
@[simp] theorem State.applyEdge_sclk (s : State) : s.applyEdge.sclk = s.sclk := rfl
@[simp] theorem State.applyEdge_sdata (s : State) : s.applyEdge.sdata = s.sdata := rfl
@[simp] theorem State.applyEdge_relay (s : State) : s.applyEdge.relay = s.relay := rfl
@[simp] theorem State.applyEdge_op (s : State) : s.applyEdge.op = s.op := rfl
@[simp] theorem State.applyEdge_opa (s : State) : s.applyEdge.opa = s.opa := rfl
@[simp] theorem State.applyEdge_opb (s : State) : s.applyEdge.opb = s.opb := rfl
@[simp] theorem State.applyEdge_res (s : State) : s.applyEdge.res = s.res := rfl
@[simp] theorem State.applyEdge_resValid (s : State) : s.applyEdge.resValid = s.resValid := rfl
@[simp] theorem State.applyEdge_opstate (s : State) : s.applyEdge.opstate = s.opstate := rfl
@[simp] theorem State.applyEdge_bstate (s : State) : s.applyEdge.bstate = s.bstate := rfl
@[simp] theorem State.applyEdge_rem (s : State) : s.applyEdge.rem = s.rem := rfl
@[simp] theorem State.applyEdge_shift (s : State) : s.applyEdge.shift = s.shift := rfl
@[simp] theorem State.applyEdge_bitidx (s : State) : s.applyEdge.bitidx = s.bitidx := rfl
@[simp] theorem State.applyEdge_frame (s : State) : s.applyEdge.frame = s.frame := rfl
@[simp] theorem State.applyEdge_trace (s : State) : s.applyEdge.trace = s.trace := rfl
@[simp] theorem State.applyEdge_ddsReady (s : State) : s.applyEdge.ddsReady = s.ddsReady := rfl
@[simp] theorem State.applyEdge_fault (s : State) : s.applyEdge.fault = s.fault := rfl
@[simp] theorem State.applyEdge_refusals (s : State) : s.applyEdge.refusals = s.refusals := rfl
@[simp] theorem State.applyEdge_reads (s : State) : s.applyEdge.reads = s.reads := rfl
@[simp] theorem State.applyEdge_stage (s : State) : s.applyEdge.stage = s.stage := rfl
@[simp] theorem State.applyEdge_freq (s : State) : s.applyEdge.freq = s.freq := rfl
@[simp] theorem State.applyEdge_rx (s : State) : s.applyEdge.rx = s.rx := rfl
@[simp] theorem State.applyEdge_draws (s : State) : s.applyEdge.draws = s.draws := rfl
@[simp] theorem State.applyEdge_encA (s : State) : s.applyEdge.encA = s.encA := rfl
@[simp] theorem State.applyEdge_encB (s : State) : s.applyEdge.encB = s.encB := rfl
@[simp] theorem State.applyEdge_btnN (s : State) : s.applyEdge.btnN = s.btnN := rfl
@[simp] theorem State.applyEdge_cfg (s : State) : s.applyEdge.cfg = s.cfg := rfl
@[simp] theorem State.applyEdge_agenda (s : State) : s.applyEdge.agenda = s.agenda := rfl

/-! ### `State.setInputs` -/

@[simp] theorem State.setInputs_acc (a b n : Option Bool) (s : State) : (s.setInputs a b n).acc = s.acc := rfl
@[simp] theorem State.setInputs_imask (a b n : Option Bool) (s : State) : (s.setInputs a b n).imask = s.imask := rfl
@[simp] theorem State.setInputs_imaskSaved (a b n : Option Bool) (s : State) : (s.setInputs a b n).imaskSaved = s.imaskSaved := rfl
@[simp] theorem State.setInputs_pend (a b n : Option Bool) (s : State) : (s.setInputs a b n).pend = s.pend := rfl
@[simp] theorem State.setInputs_encALast (a b n : Option Bool) (s : State) : (s.setInputs a b n).encALast = s.encALast := rfl
@[simp] theorem State.setInputs_fsyncN (a b n : Option Bool) (s : State) : (s.setInputs a b n).fsyncN = s.fsyncN := rfl
@[simp] theorem State.setInputs_sclk (a b n : Option Bool) (s : State) : (s.setInputs a b n).sclk = s.sclk := rfl
@[simp] theorem State.setInputs_sdata (a b n : Option Bool) (s : State) : (s.setInputs a b n).sdata = s.sdata := rfl
@[simp] theorem State.setInputs_relay (a b n : Option Bool) (s : State) : (s.setInputs a b n).relay = s.relay := rfl
@[simp] theorem State.setInputs_op (a b n : Option Bool) (s : State) : (s.setInputs a b n).op = s.op := rfl
@[simp] theorem State.setInputs_opa (a b n : Option Bool) (s : State) : (s.setInputs a b n).opa = s.opa := rfl
@[simp] theorem State.setInputs_opb (a b n : Option Bool) (s : State) : (s.setInputs a b n).opb = s.opb := rfl
@[simp] theorem State.setInputs_res (a b n : Option Bool) (s : State) : (s.setInputs a b n).res = s.res := rfl
@[simp] theorem State.setInputs_resValid (a b n : Option Bool) (s : State) : (s.setInputs a b n).resValid = s.resValid := rfl
@[simp] theorem State.setInputs_opstate (a b n : Option Bool) (s : State) : (s.setInputs a b n).opstate = s.opstate := rfl
@[simp] theorem State.setInputs_bstate (a b n : Option Bool) (s : State) : (s.setInputs a b n).bstate = s.bstate := rfl
@[simp] theorem State.setInputs_rem (a b n : Option Bool) (s : State) : (s.setInputs a b n).rem = s.rem := rfl
@[simp] theorem State.setInputs_shift (a b n : Option Bool) (s : State) : (s.setInputs a b n).shift = s.shift := rfl
@[simp] theorem State.setInputs_bitidx (a b n : Option Bool) (s : State) : (s.setInputs a b n).bitidx = s.bitidx := rfl
@[simp] theorem State.setInputs_frame (a b n : Option Bool) (s : State) : (s.setInputs a b n).frame = s.frame := rfl
@[simp] theorem State.setInputs_trace (a b n : Option Bool) (s : State) : (s.setInputs a b n).trace = s.trace := rfl
@[simp] theorem State.setInputs_ddsReady (a b n : Option Bool) (s : State) : (s.setInputs a b n).ddsReady = s.ddsReady := rfl
@[simp] theorem State.setInputs_fault (a b n : Option Bool) (s : State) : (s.setInputs a b n).fault = s.fault := rfl
@[simp] theorem State.setInputs_refusals (a b n : Option Bool) (s : State) : (s.setInputs a b n).refusals = s.refusals := rfl
@[simp] theorem State.setInputs_reads (a b n : Option Bool) (s : State) : (s.setInputs a b n).reads = s.reads := rfl
@[simp] theorem State.setInputs_stage (a b n : Option Bool) (s : State) : (s.setInputs a b n).stage = s.stage := rfl
@[simp] theorem State.setInputs_freq (a b n : Option Bool) (s : State) : (s.setInputs a b n).freq = s.freq := rfl
@[simp] theorem State.setInputs_rx (a b n : Option Bool) (s : State) : (s.setInputs a b n).rx = s.rx := rfl
@[simp] theorem State.setInputs_draws (a b n : Option Bool) (s : State) : (s.setInputs a b n).draws = s.draws := rfl
@[simp] theorem State.setInputs_encA (a b n : Option Bool) (s : State) : (s.setInputs a b n).encA = a.getD s.encA := rfl
@[simp] theorem State.setInputs_encB (a b n : Option Bool) (s : State) : (s.setInputs a b n).encB = b.getD s.encB := rfl
@[simp] theorem State.setInputs_btnN (a b n : Option Bool) (s : State) : (s.setInputs a b n).btnN = n.getD s.btnN := rfl
@[simp] theorem State.setInputs_cfg (a b n : Option Bool) (s : State) : (s.setInputs a b n).cfg = s.cfg := rfl
@[simp] theorem State.setInputs_agenda (a b n : Option Bool) (s : State) : (s.setInputs a b n).agenda = s.agenda := rfl

/-! ### `State.noteEncA` -/

@[simp] theorem State.noteEncA_acc (s : State) : s.noteEncA.acc = s.acc := rfl
@[simp] theorem State.noteEncA_imask (s : State) : s.noteEncA.imask = s.imask := rfl
@[simp] theorem State.noteEncA_imaskSaved (s : State) : s.noteEncA.imaskSaved = s.imaskSaved := rfl
@[simp] theorem State.noteEncA_pend (s : State) : s.noteEncA.pend = s.pend := rfl
@[simp] theorem State.noteEncA_encALast (s : State) : s.noteEncA.encALast = s.encA := rfl
@[simp] theorem State.noteEncA_fsyncN (s : State) : s.noteEncA.fsyncN = s.fsyncN := rfl
@[simp] theorem State.noteEncA_sclk (s : State) : s.noteEncA.sclk = s.sclk := rfl
@[simp] theorem State.noteEncA_sdata (s : State) : s.noteEncA.sdata = s.sdata := rfl
@[simp] theorem State.noteEncA_relay (s : State) : s.noteEncA.relay = s.relay := rfl
@[simp] theorem State.noteEncA_op (s : State) : s.noteEncA.op = s.op := rfl
@[simp] theorem State.noteEncA_opa (s : State) : s.noteEncA.opa = s.opa := rfl
@[simp] theorem State.noteEncA_opb (s : State) : s.noteEncA.opb = s.opb := rfl
@[simp] theorem State.noteEncA_res (s : State) : s.noteEncA.res = s.res := rfl
@[simp] theorem State.noteEncA_resValid (s : State) : s.noteEncA.resValid = s.resValid := rfl
@[simp] theorem State.noteEncA_opstate (s : State) : s.noteEncA.opstate = s.opstate := rfl
@[simp] theorem State.noteEncA_bstate (s : State) : s.noteEncA.bstate = s.bstate := rfl
@[simp] theorem State.noteEncA_rem (s : State) : s.noteEncA.rem = s.rem := rfl
@[simp] theorem State.noteEncA_shift (s : State) : s.noteEncA.shift = s.shift := rfl
@[simp] theorem State.noteEncA_bitidx (s : State) : s.noteEncA.bitidx = s.bitidx := rfl
@[simp] theorem State.noteEncA_frame (s : State) : s.noteEncA.frame = s.frame := rfl
@[simp] theorem State.noteEncA_trace (s : State) : s.noteEncA.trace = s.trace := rfl
@[simp] theorem State.noteEncA_ddsReady (s : State) : s.noteEncA.ddsReady = s.ddsReady := rfl
@[simp] theorem State.noteEncA_fault (s : State) : s.noteEncA.fault = s.fault := rfl
@[simp] theorem State.noteEncA_refusals (s : State) : s.noteEncA.refusals = s.refusals := rfl
@[simp] theorem State.noteEncA_reads (s : State) : s.noteEncA.reads = s.reads := rfl
@[simp] theorem State.noteEncA_stage (s : State) : s.noteEncA.stage = s.stage := rfl
@[simp] theorem State.noteEncA_freq (s : State) : s.noteEncA.freq = s.freq := rfl
@[simp] theorem State.noteEncA_rx (s : State) : s.noteEncA.rx = s.rx := rfl
@[simp] theorem State.noteEncA_draws (s : State) : s.noteEncA.draws = s.draws := rfl
@[simp] theorem State.noteEncA_encA (s : State) : s.noteEncA.encA = s.encA := rfl
@[simp] theorem State.noteEncA_encB (s : State) : s.noteEncA.encB = s.encB := rfl
@[simp] theorem State.noteEncA_btnN (s : State) : s.noteEncA.btnN = s.btnN := rfl
@[simp] theorem State.noteEncA_cfg (s : State) : s.noteEncA.cfg = s.cfg := rfl
@[simp] theorem State.noteEncA_agenda (s : State) : s.noteEncA.agenda = s.agenda := rfl

/-! ### `State.latch` -/

@[simp] theorem State.latch_acc (w : HostWord) (s : State) : (s.latch w).acc = s.acc := rfl
@[simp] theorem State.latch_imask (w : HostWord) (s : State) : (s.latch w).imask = s.imask := rfl
@[simp] theorem State.latch_imaskSaved (w : HostWord) (s : State) : (s.latch w).imaskSaved = s.imaskSaved := rfl
@[simp] theorem State.latch_pend (w : HostWord) (s : State) : (s.latch w).pend = s.pend := rfl
@[simp] theorem State.latch_encALast (w : HostWord) (s : State) : (s.latch w).encALast = s.encALast := rfl
@[simp] theorem State.latch_fsyncN (w : HostWord) (s : State) : (s.latch w).fsyncN = s.fsyncN := rfl
@[simp] theorem State.latch_sclk (w : HostWord) (s : State) : (s.latch w).sclk = s.sclk := rfl
@[simp] theorem State.latch_sdata (w : HostWord) (s : State) : (s.latch w).sdata = s.sdata := rfl
@[simp] theorem State.latch_relay (w : HostWord) (s : State) : (s.latch w).relay = s.relay := rfl
@[simp] theorem State.latch_op (w : HostWord) (s : State) : (s.latch w).op = w.op := rfl
@[simp] theorem State.latch_opa (w : HostWord) (s : State) : (s.latch w).opa = w.opa := rfl
@[simp] theorem State.latch_opb (w : HostWord) (s : State) : (s.latch w).opb = w.opb := rfl
@[simp] theorem State.latch_res (w : HostWord) (s : State) : (s.latch w).res = s.res := rfl
@[simp] theorem State.latch_resValid (w : HostWord) (s : State) : (s.latch w).resValid = s.resValid := rfl
@[simp] theorem State.latch_opstate (w : HostWord) (s : State) : (s.latch w).opstate = s.opstate := rfl
@[simp] theorem State.latch_bstate (w : HostWord) (s : State) : (s.latch w).bstate = s.bstate := rfl
@[simp] theorem State.latch_rem (w : HostWord) (s : State) : (s.latch w).rem = s.rem := rfl
@[simp] theorem State.latch_shift (w : HostWord) (s : State) : (s.latch w).shift = s.shift := rfl
@[simp] theorem State.latch_bitidx (w : HostWord) (s : State) : (s.latch w).bitidx = s.bitidx := rfl
@[simp] theorem State.latch_frame (w : HostWord) (s : State) : (s.latch w).frame = s.frame := rfl
@[simp] theorem State.latch_trace (w : HostWord) (s : State) : (s.latch w).trace = s.trace := rfl
@[simp] theorem State.latch_ddsReady (w : HostWord) (s : State) : (s.latch w).ddsReady = s.ddsReady := rfl
@[simp] theorem State.latch_fault (w : HostWord) (s : State) : (s.latch w).fault = s.fault := rfl
@[simp] theorem State.latch_refusals (w : HostWord) (s : State) : (s.latch w).refusals = s.refusals := rfl
@[simp] theorem State.latch_reads (w : HostWord) (s : State) : (s.latch w).reads = s.reads := rfl
@[simp] theorem State.latch_stage (w : HostWord) (s : State) : (s.latch w).stage = s.stage := rfl
@[simp] theorem State.latch_freq (w : HostWord) (s : State) : (s.latch w).freq = s.freq := rfl
@[simp] theorem State.latch_rx (w : HostWord) (s : State) : (s.latch w).rx = s.rx := rfl
@[simp] theorem State.latch_draws (w : HostWord) (s : State) : (s.latch w).draws = s.draws := rfl
@[simp] theorem State.latch_encA (w : HostWord) (s : State) : (s.latch w).encA = s.encA := rfl
@[simp] theorem State.latch_encB (w : HostWord) (s : State) : (s.latch w).encB = s.encB := rfl
@[simp] theorem State.latch_btnN (w : HostWord) (s : State) : (s.latch w).btnN = s.btnN := rfl
@[simp] theorem State.latch_cfg (w : HostWord) (s : State) : (s.latch w).cfg = s.cfg := rfl
@[simp] theorem State.latch_agenda (w : HostWord) (s : State) : (s.latch w).agenda = s.agenda := rfl

/-! ### `State.withAgenda` -/

@[simp] theorem State.withAgenda_acc (ms : List Move) (s : State) : (s.withAgenda ms).acc = s.acc := rfl
@[simp] theorem State.withAgenda_imask (ms : List Move) (s : State) : (s.withAgenda ms).imask = s.imask := rfl
@[simp] theorem State.withAgenda_imaskSaved (ms : List Move) (s : State) : (s.withAgenda ms).imaskSaved = s.imaskSaved := rfl
@[simp] theorem State.withAgenda_pend (ms : List Move) (s : State) : (s.withAgenda ms).pend = s.pend := rfl
@[simp] theorem State.withAgenda_encALast (ms : List Move) (s : State) : (s.withAgenda ms).encALast = s.encALast := rfl
@[simp] theorem State.withAgenda_fsyncN (ms : List Move) (s : State) : (s.withAgenda ms).fsyncN = s.fsyncN := rfl
@[simp] theorem State.withAgenda_sclk (ms : List Move) (s : State) : (s.withAgenda ms).sclk = s.sclk := rfl
@[simp] theorem State.withAgenda_sdata (ms : List Move) (s : State) : (s.withAgenda ms).sdata = s.sdata := rfl
@[simp] theorem State.withAgenda_relay (ms : List Move) (s : State) : (s.withAgenda ms).relay = s.relay := rfl
@[simp] theorem State.withAgenda_op (ms : List Move) (s : State) : (s.withAgenda ms).op = s.op := rfl
@[simp] theorem State.withAgenda_opa (ms : List Move) (s : State) : (s.withAgenda ms).opa = s.opa := rfl
@[simp] theorem State.withAgenda_opb (ms : List Move) (s : State) : (s.withAgenda ms).opb = s.opb := rfl
@[simp] theorem State.withAgenda_res (ms : List Move) (s : State) : (s.withAgenda ms).res = s.res := rfl
@[simp] theorem State.withAgenda_resValid (ms : List Move) (s : State) : (s.withAgenda ms).resValid = s.resValid := rfl
@[simp] theorem State.withAgenda_opstate (ms : List Move) (s : State) : (s.withAgenda ms).opstate = s.opstate := rfl
@[simp] theorem State.withAgenda_bstate (ms : List Move) (s : State) : (s.withAgenda ms).bstate = s.bstate := rfl
@[simp] theorem State.withAgenda_rem (ms : List Move) (s : State) : (s.withAgenda ms).rem = s.rem := rfl
@[simp] theorem State.withAgenda_shift (ms : List Move) (s : State) : (s.withAgenda ms).shift = s.shift := rfl
@[simp] theorem State.withAgenda_bitidx (ms : List Move) (s : State) : (s.withAgenda ms).bitidx = s.bitidx := rfl
@[simp] theorem State.withAgenda_frame (ms : List Move) (s : State) : (s.withAgenda ms).frame = s.frame := rfl
@[simp] theorem State.withAgenda_trace (ms : List Move) (s : State) : (s.withAgenda ms).trace = s.trace := rfl
@[simp] theorem State.withAgenda_ddsReady (ms : List Move) (s : State) : (s.withAgenda ms).ddsReady = s.ddsReady := rfl
@[simp] theorem State.withAgenda_fault (ms : List Move) (s : State) : (s.withAgenda ms).fault = s.fault := rfl
@[simp] theorem State.withAgenda_refusals (ms : List Move) (s : State) : (s.withAgenda ms).refusals = s.refusals := rfl
@[simp] theorem State.withAgenda_reads (ms : List Move) (s : State) : (s.withAgenda ms).reads = s.reads := rfl
@[simp] theorem State.withAgenda_stage (ms : List Move) (s : State) : (s.withAgenda ms).stage = s.stage := rfl
@[simp] theorem State.withAgenda_freq (ms : List Move) (s : State) : (s.withAgenda ms).freq = s.freq := rfl
@[simp] theorem State.withAgenda_rx (ms : List Move) (s : State) : (s.withAgenda ms).rx = s.rx := rfl
@[simp] theorem State.withAgenda_draws (ms : List Move) (s : State) : (s.withAgenda ms).draws = s.draws := rfl
@[simp] theorem State.withAgenda_encA (ms : List Move) (s : State) : (s.withAgenda ms).encA = s.encA := rfl
@[simp] theorem State.withAgenda_encB (ms : List Move) (s : State) : (s.withAgenda ms).encB = s.encB := rfl
@[simp] theorem State.withAgenda_btnN (ms : List Move) (s : State) : (s.withAgenda ms).btnN = s.btnN := rfl
@[simp] theorem State.withAgenda_cfg (ms : List Move) (s : State) : (s.withAgenda ms).cfg = s.cfg := rfl
@[simp] theorem State.withAgenda_agenda (ms : List Move) (s : State) : (s.withAgenda ms).agenda = ms := rfl

/-! ### `State.startWait` -/

@[simp] theorem State.startWait_acc (b : Half) (s : State) : (s.startWait b).acc = s.acc := rfl
@[simp] theorem State.startWait_imask (b : Half) (s : State) : (s.startWait b).imask = s.imask := rfl
@[simp] theorem State.startWait_imaskSaved (b : Half) (s : State) : (s.startWait b).imaskSaved = s.imaskSaved := rfl
@[simp] theorem State.startWait_pend (b : Half) (s : State) : (s.startWait b).pend = s.pend := rfl
@[simp] theorem State.startWait_encALast (b : Half) (s : State) : (s.startWait b).encALast = s.encALast := rfl
@[simp] theorem State.startWait_fsyncN (b : Half) (s : State) : (s.startWait b).fsyncN = s.fsyncN := rfl
@[simp] theorem State.startWait_sclk (b : Half) (s : State) : (s.startWait b).sclk = s.sclk := rfl
@[simp] theorem State.startWait_sdata (b : Half) (s : State) : (s.startWait b).sdata = s.sdata := rfl
@[simp] theorem State.startWait_relay (b : Half) (s : State) : (s.startWait b).relay = s.relay := rfl
@[simp] theorem State.startWait_op (b : Half) (s : State) : (s.startWait b).op = s.op := rfl
@[simp] theorem State.startWait_opa (b : Half) (s : State) : (s.startWait b).opa = s.opa := rfl
@[simp] theorem State.startWait_opb (b : Half) (s : State) : (s.startWait b).opb = s.opb := rfl
@[simp] theorem State.startWait_res (b : Half) (s : State) : (s.startWait b).res = s.res := rfl
@[simp] theorem State.startWait_resValid (b : Half) (s : State) : (s.startWait b).resValid = s.resValid := rfl
@[simp] theorem State.startWait_opstate (b : Half) (s : State) : (s.startWait b).opstate = .classifying := rfl
@[simp] theorem State.startWait_bstate (b : Half) (s : State) : (s.startWait b).bstate = .bWait := rfl
@[simp] theorem State.startWait_rem (b : Half) (s : State) : (s.startWait b).rem = b := rfl
@[simp] theorem State.startWait_shift (b : Half) (s : State) : (s.startWait b).shift = s.shift := rfl
@[simp] theorem State.startWait_bitidx (b : Half) (s : State) : (s.startWait b).bitidx = s.bitidx := rfl
@[simp] theorem State.startWait_frame (b : Half) (s : State) : (s.startWait b).frame = s.frame := rfl
@[simp] theorem State.startWait_trace (b : Half) (s : State) : (s.startWait b).trace = s.trace := rfl
@[simp] theorem State.startWait_ddsReady (b : Half) (s : State) : (s.startWait b).ddsReady = s.ddsReady := rfl
@[simp] theorem State.startWait_fault (b : Half) (s : State) : (s.startWait b).fault = s.fault := rfl
@[simp] theorem State.startWait_refusals (b : Half) (s : State) : (s.startWait b).refusals = s.refusals := rfl
@[simp] theorem State.startWait_reads (b : Half) (s : State) : (s.startWait b).reads = s.reads := rfl
@[simp] theorem State.startWait_stage (b : Half) (s : State) : (s.startWait b).stage = s.stage := rfl
@[simp] theorem State.startWait_freq (b : Half) (s : State) : (s.startWait b).freq = s.freq := rfl
@[simp] theorem State.startWait_rx (b : Half) (s : State) : (s.startWait b).rx = s.rx := rfl
@[simp] theorem State.startWait_draws (b : Half) (s : State) : (s.startWait b).draws = s.draws := rfl
@[simp] theorem State.startWait_encA (b : Half) (s : State) : (s.startWait b).encA = s.encA := rfl
@[simp] theorem State.startWait_encB (b : Half) (s : State) : (s.startWait b).encB = s.encB := rfl
@[simp] theorem State.startWait_btnN (b : Half) (s : State) : (s.startWait b).btnN = s.btnN := rfl
@[simp] theorem State.startWait_cfg (b : Half) (s : State) : (s.startWait b).cfg = s.cfg := rfl
@[simp] theorem State.startWait_agenda (b : Half) (s : State) : (s.startWait b).agenda = s.agenda := rfl

/-! ### `State.countDown` -/

@[simp] theorem State.countDown_acc (s : State) : s.countDown.acc = s.acc := rfl
@[simp] theorem State.countDown_imask (s : State) : s.countDown.imask = s.imask := rfl
@[simp] theorem State.countDown_imaskSaved (s : State) : s.countDown.imaskSaved = s.imaskSaved := rfl
@[simp] theorem State.countDown_pend (s : State) : s.countDown.pend = s.pend := rfl
@[simp] theorem State.countDown_encALast (s : State) : s.countDown.encALast = s.encALast := rfl
@[simp] theorem State.countDown_fsyncN (s : State) : s.countDown.fsyncN = s.fsyncN := rfl
@[simp] theorem State.countDown_sclk (s : State) : s.countDown.sclk = s.sclk := rfl
@[simp] theorem State.countDown_sdata (s : State) : s.countDown.sdata = s.sdata := rfl
@[simp] theorem State.countDown_relay (s : State) : s.countDown.relay = s.relay := rfl
@[simp] theorem State.countDown_op (s : State) : s.countDown.op = s.op := rfl
@[simp] theorem State.countDown_opa (s : State) : s.countDown.opa = s.opa := rfl
@[simp] theorem State.countDown_opb (s : State) : s.countDown.opb = s.opb := rfl
@[simp] theorem State.countDown_res (s : State) : s.countDown.res = s.res := rfl
@[simp] theorem State.countDown_resValid (s : State) : s.countDown.resValid = s.resValid := rfl
@[simp] theorem State.countDown_opstate (s : State) : s.countDown.opstate = s.opstate := rfl
@[simp] theorem State.countDown_bstate (s : State) : s.countDown.bstate = s.bstate := rfl
@[simp] theorem State.countDown_rem (s : State) : s.countDown.rem = s.rem - 1 := rfl
@[simp] theorem State.countDown_shift (s : State) : s.countDown.shift = s.shift := rfl
@[simp] theorem State.countDown_bitidx (s : State) : s.countDown.bitidx = s.bitidx := rfl
@[simp] theorem State.countDown_frame (s : State) : s.countDown.frame = s.frame := rfl
@[simp] theorem State.countDown_trace (s : State) : s.countDown.trace = s.trace := rfl
@[simp] theorem State.countDown_ddsReady (s : State) : s.countDown.ddsReady = s.ddsReady := rfl
@[simp] theorem State.countDown_fault (s : State) : s.countDown.fault = s.fault := rfl
@[simp] theorem State.countDown_refusals (s : State) : s.countDown.refusals = s.refusals := rfl
@[simp] theorem State.countDown_reads (s : State) : s.countDown.reads = s.reads := rfl
@[simp] theorem State.countDown_stage (s : State) : s.countDown.stage = s.stage := rfl
@[simp] theorem State.countDown_freq (s : State) : s.countDown.freq = s.freq := rfl
@[simp] theorem State.countDown_rx (s : State) : s.countDown.rx = s.rx := rfl
@[simp] theorem State.countDown_draws (s : State) : s.countDown.draws = s.draws := rfl
@[simp] theorem State.countDown_encA (s : State) : s.countDown.encA = s.encA := rfl
@[simp] theorem State.countDown_encB (s : State) : s.countDown.encB = s.encB := rfl
@[simp] theorem State.countDown_btnN (s : State) : s.countDown.btnN = s.btnN := rfl
@[simp] theorem State.countDown_cfg (s : State) : s.countDown.cfg = s.cfg := rfl
@[simp] theorem State.countDown_agenda (s : State) : s.countDown.agenda = s.agenda := rfl

/-! ### `State.finishGesture` -/

@[simp] theorem State.finishGesture_acc (g : Gesture) (s : State) : (s.finishGesture g).acc = s.acc := rfl
@[simp] theorem State.finishGesture_imask (g : Gesture) (s : State) : (s.finishGesture g).imask = s.imask := rfl
@[simp] theorem State.finishGesture_imaskSaved (g : Gesture) (s : State) : (s.finishGesture g).imaskSaved = s.imaskSaved := rfl
@[simp] theorem State.finishGesture_pend (g : Gesture) (s : State) : (s.finishGesture g).pend = s.pend := rfl
@[simp] theorem State.finishGesture_encALast (g : Gesture) (s : State) : (s.finishGesture g).encALast = s.encALast := rfl
@[simp] theorem State.finishGesture_fsyncN (g : Gesture) (s : State) : (s.finishGesture g).fsyncN = s.fsyncN := rfl
@[simp] theorem State.finishGesture_sclk (g : Gesture) (s : State) : (s.finishGesture g).sclk = s.sclk := rfl
@[simp] theorem State.finishGesture_sdata (g : Gesture) (s : State) : (s.finishGesture g).sdata = s.sdata := rfl
@[simp] theorem State.finishGesture_relay (g : Gesture) (s : State) : (s.finishGesture g).relay = s.relay := rfl
@[simp] theorem State.finishGesture_op (g : Gesture) (s : State) : (s.finishGesture g).op = s.op := rfl
@[simp] theorem State.finishGesture_opa (g : Gesture) (s : State) : (s.finishGesture g).opa = s.opa := rfl
@[simp] theorem State.finishGesture_opb (g : Gesture) (s : State) : (s.finishGesture g).opb = s.opb := rfl
@[simp] theorem State.finishGesture_res (g : Gesture) (s : State) : (s.finishGesture g).res = (gestureCode g).zeroExtend 32 := rfl
@[simp] theorem State.finishGesture_resValid (g : Gesture) (s : State) : (s.finishGesture g).resValid = true := rfl
@[simp] theorem State.finishGesture_opstate (g : Gesture) (s : State) : (s.finishGesture g).opstate = .idle := rfl
@[simp] theorem State.finishGesture_bstate (g : Gesture) (s : State) : (s.finishGesture g).bstate = .bIdle := rfl
@[simp] theorem State.finishGesture_rem (g : Gesture) (s : State) : (s.finishGesture g).rem = s.rem := rfl
@[simp] theorem State.finishGesture_shift (g : Gesture) (s : State) : (s.finishGesture g).shift = s.shift := rfl
@[simp] theorem State.finishGesture_bitidx (g : Gesture) (s : State) : (s.finishGesture g).bitidx = s.bitidx := rfl
@[simp] theorem State.finishGesture_frame (g : Gesture) (s : State) : (s.finishGesture g).frame = s.frame := rfl
@[simp] theorem State.finishGesture_trace (g : Gesture) (s : State) : (s.finishGesture g).trace = s.trace := rfl
@[simp] theorem State.finishGesture_ddsReady (g : Gesture) (s : State) : (s.finishGesture g).ddsReady = s.ddsReady := rfl
@[simp] theorem State.finishGesture_fault (g : Gesture) (s : State) : (s.finishGesture g).fault = s.fault := rfl
@[simp] theorem State.finishGesture_refusals (g : Gesture) (s : State) : (s.finishGesture g).refusals = s.refusals := rfl
@[simp] theorem State.finishGesture_reads (g : Gesture) (s : State) : (s.finishGesture g).reads = s.reads := rfl
@[simp] theorem State.finishGesture_stage (g : Gesture) (s : State) : (s.finishGesture g).stage = s.stage := rfl
@[simp] theorem State.finishGesture_freq (g : Gesture) (s : State) : (s.finishGesture g).freq = s.freq := rfl
@[simp] theorem State.finishGesture_rx (g : Gesture) (s : State) : (s.finishGesture g).rx = s.rx := rfl
@[simp] theorem State.finishGesture_draws (g : Gesture) (s : State) : (s.finishGesture g).draws = s.draws := rfl
@[simp] theorem State.finishGesture_encA (g : Gesture) (s : State) : (s.finishGesture g).encA = s.encA := rfl
@[simp] theorem State.finishGesture_encB (g : Gesture) (s : State) : (s.finishGesture g).encB = s.encB := rfl
@[simp] theorem State.finishGesture_btnN (g : Gesture) (s : State) : (s.finishGesture g).btnN = s.btnN := rfl
@[simp] theorem State.finishGesture_cfg (g : Gesture) (s : State) : (s.finishGesture g).cfg = s.cfg := rfl
@[simp] theorem State.finishGesture_agenda (g : Gesture) (s : State) : (s.finishGesture g).agenda = s.agenda := rfl

/-! ### `State.goto` -/

@[simp] theorem State.goto_acc (t : Transfer) (p : Phase) (s : State) : (s.goto t p).acc = s.acc := rfl
@[simp] theorem State.goto_imask (t : Transfer) (p : Phase) (s : State) : (s.goto t p).imask = s.imask := rfl
@[simp] theorem State.goto_imaskSaved (t : Transfer) (p : Phase) (s : State) : (s.goto t p).imaskSaved = s.imaskSaved := rfl
@[simp] theorem State.goto_pend (t : Transfer) (p : Phase) (s : State) : (s.goto t p).pend = s.pend := rfl
@[simp] theorem State.goto_encALast (t : Transfer) (p : Phase) (s : State) : (s.goto t p).encALast = s.encALast := rfl
@[simp] theorem State.goto_fsyncN (t : Transfer) (p : Phase) (s : State) : (s.goto t p).fsyncN = s.fsyncN := rfl
@[simp] theorem State.goto_sclk (t : Transfer) (p : Phase) (s : State) : (s.goto t p).sclk = s.sclk := rfl
@[simp] theorem State.goto_sdata (t : Transfer) (p : Phase) (s : State) : (s.goto t p).sdata = s.sdata := rfl
@[simp] theorem State.goto_relay (t : Transfer) (p : Phase) (s : State) : (s.goto t p).relay = s.relay := rfl
@[simp] theorem State.goto_op (t : Transfer) (p : Phase) (s : State) : (s.goto t p).op = s.op := rfl
@[simp] theorem State.goto_opa (t : Transfer) (p : Phase) (s : State) : (s.goto t p).opa = s.opa := rfl
@[simp] theorem State.goto_opb (t : Transfer) (p : Phase) (s : State) : (s.goto t p).opb = s.opb := rfl
@[simp] theorem State.goto_res (t : Transfer) (p : Phase) (s : State) : (s.goto t p).res = s.res := rfl
@[simp] theorem State.goto_resValid (t : Transfer) (p : Phase) (s : State) : (s.goto t p).resValid = s.resValid := rfl
@[simp] theorem State.goto_opstate (t : Transfer) (p : Phase) (s : State) : (s.goto t p).opstate = .sending t p := rfl
@[simp] theorem State.goto_bstate (t : Transfer) (p : Phase) (s : State) : (s.goto t p).bstate = s.bstate := rfl
@[simp] theorem State.goto_rem (t : Transfer) (p : Phase) (s : State) : (s.goto t p).rem = s.rem := rfl
@[simp] theorem State.goto_shift (t : Transfer) (p : Phase) (s : State) : (s.goto t p).shift = s.shift := rfl
@[simp] theorem State.goto_bitidx (t : Transfer) (p : Phase) (s : State) : (s.goto t p).bitidx = s.bitidx := rfl
@[simp] theorem State.goto_frame (t : Transfer) (p : Phase) (s : State) : (s.goto t p).frame = s.frame := rfl
@[simp] theorem State.goto_trace (t : Transfer) (p : Phase) (s : State) : (s.goto t p).trace = s.trace := rfl
@[simp] theorem State.goto_ddsReady (t : Transfer) (p : Phase) (s : State) : (s.goto t p).ddsReady = s.ddsReady := rfl
@[simp] theorem State.goto_fault (t : Transfer) (p : Phase) (s : State) : (s.goto t p).fault = s.fault := rfl
@[simp] theorem State.goto_refusals (t : Transfer) (p : Phase) (s : State) : (s.goto t p).refusals = s.refusals := rfl
@[simp] theorem State.goto_reads (t : Transfer) (p : Phase) (s : State) : (s.goto t p).reads = s.reads := rfl
@[simp] theorem State.goto_stage (t : Transfer) (p : Phase) (s : State) : (s.goto t p).stage = s.stage := rfl
@[simp] theorem State.goto_freq (t : Transfer) (p : Phase) (s : State) : (s.goto t p).freq = s.freq := rfl
@[simp] theorem State.goto_rx (t : Transfer) (p : Phase) (s : State) : (s.goto t p).rx = s.rx := rfl
@[simp] theorem State.goto_draws (t : Transfer) (p : Phase) (s : State) : (s.goto t p).draws = s.draws := rfl
@[simp] theorem State.goto_encA (t : Transfer) (p : Phase) (s : State) : (s.goto t p).encA = s.encA := rfl
@[simp] theorem State.goto_encB (t : Transfer) (p : Phase) (s : State) : (s.goto t p).encB = s.encB := rfl
@[simp] theorem State.goto_btnN (t : Transfer) (p : Phase) (s : State) : (s.goto t p).btnN = s.btnN := rfl
@[simp] theorem State.goto_cfg (t : Transfer) (p : Phase) (s : State) : (s.goto t p).cfg = s.cfg := rfl
@[simp] theorem State.goto_agenda (t : Transfer) (p : Phase) (s : State) : (s.goto t p).agenda = s.agenda := rfl

/-! ### `State.saveImask` -/

@[simp] theorem State.saveImask_acc (s : State) : s.saveImask.acc = s.acc := rfl
@[simp] theorem State.saveImask_imask (s : State) : s.saveImask.imask = s.imask := rfl
@[simp] theorem State.saveImask_imaskSaved (s : State) : s.saveImask.imaskSaved = s.imask := rfl
@[simp] theorem State.saveImask_pend (s : State) : s.saveImask.pend = s.pend := rfl
@[simp] theorem State.saveImask_encALast (s : State) : s.saveImask.encALast = s.encALast := rfl
@[simp] theorem State.saveImask_fsyncN (s : State) : s.saveImask.fsyncN = s.fsyncN := rfl
@[simp] theorem State.saveImask_sclk (s : State) : s.saveImask.sclk = s.sclk := rfl
@[simp] theorem State.saveImask_sdata (s : State) : s.saveImask.sdata = s.sdata := rfl
@[simp] theorem State.saveImask_relay (s : State) : s.saveImask.relay = s.relay := rfl
@[simp] theorem State.saveImask_op (s : State) : s.saveImask.op = s.op := rfl
@[simp] theorem State.saveImask_opa (s : State) : s.saveImask.opa = s.opa := rfl
@[simp] theorem State.saveImask_opb (s : State) : s.saveImask.opb = s.opb := rfl
@[simp] theorem State.saveImask_res (s : State) : s.saveImask.res = s.res := rfl
@[simp] theorem State.saveImask_resValid (s : State) : s.saveImask.resValid = s.resValid := rfl
@[simp] theorem State.saveImask_opstate (s : State) : s.saveImask.opstate = s.opstate := rfl
@[simp] theorem State.saveImask_bstate (s : State) : s.saveImask.bstate = s.bstate := rfl
@[simp] theorem State.saveImask_rem (s : State) : s.saveImask.rem = s.rem := rfl
@[simp] theorem State.saveImask_shift (s : State) : s.saveImask.shift = s.shift := rfl
@[simp] theorem State.saveImask_bitidx (s : State) : s.saveImask.bitidx = s.bitidx := rfl
@[simp] theorem State.saveImask_frame (s : State) : s.saveImask.frame = s.frame := rfl
@[simp] theorem State.saveImask_trace (s : State) : s.saveImask.trace = s.trace := rfl
@[simp] theorem State.saveImask_ddsReady (s : State) : s.saveImask.ddsReady = s.ddsReady := rfl
@[simp] theorem State.saveImask_fault (s : State) : s.saveImask.fault = s.fault := rfl
@[simp] theorem State.saveImask_refusals (s : State) : s.saveImask.refusals = s.refusals := rfl
@[simp] theorem State.saveImask_reads (s : State) : s.saveImask.reads = s.reads := rfl
@[simp] theorem State.saveImask_stage (s : State) : s.saveImask.stage = s.stage := rfl
@[simp] theorem State.saveImask_freq (s : State) : s.saveImask.freq = s.freq := rfl
@[simp] theorem State.saveImask_rx (s : State) : s.saveImask.rx = s.rx := rfl
@[simp] theorem State.saveImask_draws (s : State) : s.saveImask.draws = s.draws := rfl
@[simp] theorem State.saveImask_encA (s : State) : s.saveImask.encA = s.encA := rfl
@[simp] theorem State.saveImask_encB (s : State) : s.saveImask.encB = s.encB := rfl
@[simp] theorem State.saveImask_btnN (s : State) : s.saveImask.btnN = s.btnN := rfl
@[simp] theorem State.saveImask_cfg (s : State) : s.saveImask.cfg = s.cfg := rfl
@[simp] theorem State.saveImask_agenda (s : State) : s.saveImask.agenda = s.agenda := rfl

/-! ### `State.loadFrame` -/

@[simp] theorem State.loadFrame_acc (t : Transfer) (k : Nat) (s : State) : (s.loadFrame t k).acc = s.acc := rfl
@[simp] theorem State.loadFrame_imask (t : Transfer) (k : Nat) (s : State) : (s.loadFrame t k).imask = s.imask := rfl
@[simp] theorem State.loadFrame_imaskSaved (t : Transfer) (k : Nat) (s : State) : (s.loadFrame t k).imaskSaved = s.imaskSaved := rfl
@[simp] theorem State.loadFrame_pend (t : Transfer) (k : Nat) (s : State) : (s.loadFrame t k).pend = s.pend := rfl
@[simp] theorem State.loadFrame_encALast (t : Transfer) (k : Nat) (s : State) : (s.loadFrame t k).encALast = s.encALast := rfl
@[simp] theorem State.loadFrame_fsyncN (t : Transfer) (k : Nat) (s : State) : (s.loadFrame t k).fsyncN = s.fsyncN := rfl
@[simp] theorem State.loadFrame_sclk (t : Transfer) (k : Nat) (s : State) : (s.loadFrame t k).sclk = s.sclk := rfl
@[simp] theorem State.loadFrame_sdata (t : Transfer) (k : Nat) (s : State) : (s.loadFrame t k).sdata = s.sdata := rfl
@[simp] theorem State.loadFrame_relay (t : Transfer) (k : Nat) (s : State) : (s.loadFrame t k).relay = s.relay := rfl
@[simp] theorem State.loadFrame_op (t : Transfer) (k : Nat) (s : State) : (s.loadFrame t k).op = s.op := rfl
@[simp] theorem State.loadFrame_opa (t : Transfer) (k : Nat) (s : State) : (s.loadFrame t k).opa = s.opa := rfl
@[simp] theorem State.loadFrame_opb (t : Transfer) (k : Nat) (s : State) : (s.loadFrame t k).opb = s.opb := rfl
@[simp] theorem State.loadFrame_res (t : Transfer) (k : Nat) (s : State) : (s.loadFrame t k).res = s.res := rfl
@[simp] theorem State.loadFrame_resValid (t : Transfer) (k : Nat) (s : State) : (s.loadFrame t k).resValid = s.resValid := rfl
@[simp] theorem State.loadFrame_opstate (t : Transfer) (k : Nat) (s : State) : (s.loadFrame t k).opstate = s.opstate := rfl
@[simp] theorem State.loadFrame_bstate (t : Transfer) (k : Nat) (s : State) : (s.loadFrame t k).bstate = s.bstate := rfl
@[simp] theorem State.loadFrame_rem (t : Transfer) (k : Nat) (s : State) : (s.loadFrame t k).rem = s.rem := rfl
@[simp] theorem State.loadFrame_shift (t : Transfer) (k : Nat) (s : State) : (s.loadFrame t k).shift = frameAt s.cfg t k := rfl
@[simp] theorem State.loadFrame_bitidx (t : Transfer) (k : Nat) (s : State) : (s.loadFrame t k).bitidx = s.bitidx := rfl
@[simp] theorem State.loadFrame_frame (t : Transfer) (k : Nat) (s : State) : (s.loadFrame t k).frame = frameIndexAt t k s.frame := rfl
@[simp] theorem State.loadFrame_trace (t : Transfer) (k : Nat) (s : State) : (s.loadFrame t k).trace = s.trace := rfl
@[simp] theorem State.loadFrame_ddsReady (t : Transfer) (k : Nat) (s : State) : (s.loadFrame t k).ddsReady = s.ddsReady := rfl
@[simp] theorem State.loadFrame_fault (t : Transfer) (k : Nat) (s : State) : (s.loadFrame t k).fault = s.fault := rfl
@[simp] theorem State.loadFrame_refusals (t : Transfer) (k : Nat) (s : State) : (s.loadFrame t k).refusals = s.refusals := rfl
@[simp] theorem State.loadFrame_reads (t : Transfer) (k : Nat) (s : State) : (s.loadFrame t k).reads = s.reads := rfl
@[simp] theorem State.loadFrame_stage (t : Transfer) (k : Nat) (s : State) : (s.loadFrame t k).stage = s.stage := rfl
@[simp] theorem State.loadFrame_freq (t : Transfer) (k : Nat) (s : State) : (s.loadFrame t k).freq = s.freq := rfl
@[simp] theorem State.loadFrame_rx (t : Transfer) (k : Nat) (s : State) : (s.loadFrame t k).rx = s.rx := rfl
@[simp] theorem State.loadFrame_draws (t : Transfer) (k : Nat) (s : State) : (s.loadFrame t k).draws = s.draws := rfl
@[simp] theorem State.loadFrame_encA (t : Transfer) (k : Nat) (s : State) : (s.loadFrame t k).encA = s.encA := rfl
@[simp] theorem State.loadFrame_encB (t : Transfer) (k : Nat) (s : State) : (s.loadFrame t k).encB = s.encB := rfl
@[simp] theorem State.loadFrame_btnN (t : Transfer) (k : Nat) (s : State) : (s.loadFrame t k).btnN = s.btnN := rfl
@[simp] theorem State.loadFrame_cfg (t : Transfer) (k : Nat) (s : State) : (s.loadFrame t k).cfg = s.cfg := rfl
@[simp] theorem State.loadFrame_agenda (t : Transfer) (k : Nat) (s : State) : (s.loadFrame t k).agenda = s.agenda := rfl

/-! ### `State.stageByte` -/

@[simp] theorem State.stageByte_acc (d : Byte) (s : State) : (s.stageByte d).acc = s.acc := rfl
@[simp] theorem State.stageByte_imask (d : Byte) (s : State) : (s.stageByte d).imask = s.imask := rfl
@[simp] theorem State.stageByte_imaskSaved (d : Byte) (s : State) : (s.stageByte d).imaskSaved = s.imaskSaved := rfl
@[simp] theorem State.stageByte_pend (d : Byte) (s : State) : (s.stageByte d).pend = s.pend := rfl
@[simp] theorem State.stageByte_encALast (d : Byte) (s : State) : (s.stageByte d).encALast = s.encALast := rfl
@[simp] theorem State.stageByte_fsyncN (d : Byte) (s : State) : (s.stageByte d).fsyncN = s.fsyncN := rfl
@[simp] theorem State.stageByte_sclk (d : Byte) (s : State) : (s.stageByte d).sclk = s.sclk := rfl
@[simp] theorem State.stageByte_sdata (d : Byte) (s : State) : (s.stageByte d).sdata = s.sdata := rfl
@[simp] theorem State.stageByte_relay (d : Byte) (s : State) : (s.stageByte d).relay = s.relay := rfl
@[simp] theorem State.stageByte_op (d : Byte) (s : State) : (s.stageByte d).op = s.op := rfl
@[simp] theorem State.stageByte_opa (d : Byte) (s : State) : (s.stageByte d).opa = s.opa := rfl
@[simp] theorem State.stageByte_opb (d : Byte) (s : State) : (s.stageByte d).opb = s.opb := rfl
@[simp] theorem State.stageByte_res (d : Byte) (s : State) : (s.stageByte d).res = s.res := rfl
@[simp] theorem State.stageByte_resValid (d : Byte) (s : State) : (s.stageByte d).resValid = s.resValid := rfl
@[simp] theorem State.stageByte_opstate (d : Byte) (s : State) : (s.stageByte d).opstate = s.opstate := rfl
@[simp] theorem State.stageByte_bstate (d : Byte) (s : State) : (s.stageByte d).bstate = s.bstate := rfl
@[simp] theorem State.stageByte_rem (d : Byte) (s : State) : (s.stageByte d).rem = s.rem := rfl
@[simp] theorem State.stageByte_shift (d : Byte) (s : State) : (s.stageByte d).shift = s.shift := rfl
@[simp] theorem State.stageByte_bitidx (d : Byte) (s : State) : (s.stageByte d).bitidx = s.bitidx := rfl
@[simp] theorem State.stageByte_frame (d : Byte) (s : State) : (s.stageByte d).frame = s.frame := rfl
@[simp] theorem State.stageByte_trace (d : Byte) (s : State) : (s.stageByte d).trace = s.trace := rfl
@[simp] theorem State.stageByte_ddsReady (d : Byte) (s : State) : (s.stageByte d).ddsReady = s.ddsReady := rfl
@[simp] theorem State.stageByte_fault (d : Byte) (s : State) : (s.stageByte d).fault = s.fault := rfl
@[simp] theorem State.stageByte_refusals (d : Byte) (s : State) : (s.stageByte d).refusals = s.refusals := rfl
@[simp] theorem State.stageByte_reads (d : Byte) (s : State) : (s.stageByte d).reads = s.reads := rfl
@[simp] theorem State.stageByte_stage (d : Byte) (s : State) : (s.stageByte d).stage = d := rfl
@[simp] theorem State.stageByte_freq (d : Byte) (s : State) : (s.stageByte d).freq = s.freq := rfl
@[simp] theorem State.stageByte_rx (d : Byte) (s : State) : (s.stageByte d).rx = s.rx := rfl
@[simp] theorem State.stageByte_draws (d : Byte) (s : State) : (s.stageByte d).draws = s.draws := rfl
@[simp] theorem State.stageByte_encA (d : Byte) (s : State) : (s.stageByte d).encA = s.encA := rfl
@[simp] theorem State.stageByte_encB (d : Byte) (s : State) : (s.stageByte d).encB = s.encB := rfl
@[simp] theorem State.stageByte_btnN (d : Byte) (s : State) : (s.stageByte d).btnN = s.btnN := rfl
@[simp] theorem State.stageByte_cfg (d : Byte) (s : State) : (s.stageByte d).cfg = s.cfg := rfl
@[simp] theorem State.stageByte_agenda (d : Byte) (s : State) : (s.stageByte d).agenda = s.agenda := rfl

/-! ### `State.commitHalf` -/

@[simp] theorem State.commitHalf_acc (h : FreqHalf) (d : Byte) (s : State) : (s.commitHalf h d).acc = s.acc := rfl
@[simp] theorem State.commitHalf_imask (h : FreqHalf) (d : Byte) (s : State) : (s.commitHalf h d).imask = s.imask := rfl
@[simp] theorem State.commitHalf_imaskSaved (h : FreqHalf) (d : Byte) (s : State) : (s.commitHalf h d).imaskSaved = s.imaskSaved := rfl
@[simp] theorem State.commitHalf_pend (h : FreqHalf) (d : Byte) (s : State) : (s.commitHalf h d).pend = s.pend := rfl
@[simp] theorem State.commitHalf_encALast (h : FreqHalf) (d : Byte) (s : State) : (s.commitHalf h d).encALast = s.encALast := rfl
@[simp] theorem State.commitHalf_fsyncN (h : FreqHalf) (d : Byte) (s : State) : (s.commitHalf h d).fsyncN = s.fsyncN := rfl
@[simp] theorem State.commitHalf_sclk (h : FreqHalf) (d : Byte) (s : State) : (s.commitHalf h d).sclk = s.sclk := rfl
@[simp] theorem State.commitHalf_sdata (h : FreqHalf) (d : Byte) (s : State) : (s.commitHalf h d).sdata = s.sdata := rfl
@[simp] theorem State.commitHalf_relay (h : FreqHalf) (d : Byte) (s : State) : (s.commitHalf h d).relay = s.relay := rfl
@[simp] theorem State.commitHalf_op (h : FreqHalf) (d : Byte) (s : State) : (s.commitHalf h d).op = s.op := rfl
@[simp] theorem State.commitHalf_opa (h : FreqHalf) (d : Byte) (s : State) : (s.commitHalf h d).opa = s.opa := rfl
@[simp] theorem State.commitHalf_opb (h : FreqHalf) (d : Byte) (s : State) : (s.commitHalf h d).opb = s.opb := rfl
@[simp] theorem State.commitHalf_res (h : FreqHalf) (d : Byte) (s : State) : (s.commitHalf h d).res = s.res := rfl
@[simp] theorem State.commitHalf_resValid (h : FreqHalf) (d : Byte) (s : State) : (s.commitHalf h d).resValid = s.resValid := rfl
@[simp] theorem State.commitHalf_opstate (h : FreqHalf) (d : Byte) (s : State) : (s.commitHalf h d).opstate = s.opstate := rfl
@[simp] theorem State.commitHalf_bstate (h : FreqHalf) (d : Byte) (s : State) : (s.commitHalf h d).bstate = s.bstate := rfl
@[simp] theorem State.commitHalf_rem (h : FreqHalf) (d : Byte) (s : State) : (s.commitHalf h d).rem = s.rem := rfl
@[simp] theorem State.commitHalf_shift (h : FreqHalf) (d : Byte) (s : State) : (s.commitHalf h d).shift = s.shift := rfl
@[simp] theorem State.commitHalf_bitidx (h : FreqHalf) (d : Byte) (s : State) : (s.commitHalf h d).bitidx = s.bitidx := rfl
@[simp] theorem State.commitHalf_frame (h : FreqHalf) (d : Byte) (s : State) : (s.commitHalf h d).frame = s.frame := rfl
@[simp] theorem State.commitHalf_trace (h : FreqHalf) (d : Byte) (s : State) : (s.commitHalf h d).trace = s.trace := rfl
@[simp] theorem State.commitHalf_ddsReady (h : FreqHalf) (d : Byte) (s : State) : (s.commitHalf h d).ddsReady = s.ddsReady := rfl
@[simp] theorem State.commitHalf_fault (h : FreqHalf) (d : Byte) (s : State) : (s.commitHalf h d).fault = s.fault := rfl
@[simp] theorem State.commitHalf_refusals (h : FreqHalf) (d : Byte) (s : State) : (s.commitHalf h d).refusals = s.refusals := rfl
@[simp] theorem State.commitHalf_reads (h : FreqHalf) (d : Byte) (s : State) : (s.commitHalf h d).reads = s.reads := rfl
@[simp] theorem State.commitHalf_stage (h : FreqHalf) (d : Byte) (s : State) : (s.commitHalf h d).stage = s.stage := rfl
@[simp] theorem State.commitHalf_freq (h : FreqHalf) (d : Byte) (s : State) : (s.commitHalf h d).freq = committed h d s.stage s.freq := rfl
@[simp] theorem State.commitHalf_rx (h : FreqHalf) (d : Byte) (s : State) : (s.commitHalf h d).rx = s.rx := rfl
@[simp] theorem State.commitHalf_draws (h : FreqHalf) (d : Byte) (s : State) : (s.commitHalf h d).draws = s.draws := rfl
@[simp] theorem State.commitHalf_encA (h : FreqHalf) (d : Byte) (s : State) : (s.commitHalf h d).encA = s.encA := rfl
@[simp] theorem State.commitHalf_encB (h : FreqHalf) (d : Byte) (s : State) : (s.commitHalf h d).encB = s.encB := rfl
@[simp] theorem State.commitHalf_btnN (h : FreqHalf) (d : Byte) (s : State) : (s.commitHalf h d).btnN = s.btnN := rfl
@[simp] theorem State.commitHalf_cfg (h : FreqHalf) (d : Byte) (s : State) : (s.commitHalf h d).cfg = s.cfg := rfl
@[simp] theorem State.commitHalf_agenda (h : FreqHalf) (d : Byte) (s : State) : (s.commitHalf h d).agenda = s.agenda := rfl

/-! ### `State.scrambleReader` -/

@[simp] theorem State.scrambleReader_acc (s : State) : s.scrambleReader.acc = s.acc := rfl
@[simp] theorem State.scrambleReader_imask (s : State) : s.scrambleReader.imask = s.imask := rfl
@[simp] theorem State.scrambleReader_imaskSaved (s : State) : s.scrambleReader.imaskSaved = s.imaskSaved := rfl
@[simp] theorem State.scrambleReader_pend (s : State) : s.scrambleReader.pend = s.pend := rfl
@[simp] theorem State.scrambleReader_encALast (s : State) : s.scrambleReader.encALast = s.encALast := rfl
@[simp] theorem State.scrambleReader_fsyncN (s : State) : s.scrambleReader.fsyncN = s.fsyncN := rfl
@[simp] theorem State.scrambleReader_sclk (s : State) : s.scrambleReader.sclk = s.sclk := rfl
@[simp] theorem State.scrambleReader_sdata (s : State) : s.scrambleReader.sdata = s.sdata := rfl
@[simp] theorem State.scrambleReader_relay (s : State) : s.scrambleReader.relay = s.relay := rfl
@[simp] theorem State.scrambleReader_op (s : State) : s.scrambleReader.op = s.op := rfl
@[simp] theorem State.scrambleReader_opa (s : State) : s.scrambleReader.opa = s.opa := rfl
@[simp] theorem State.scrambleReader_opb (s : State) : s.scrambleReader.opb = s.opb := rfl
@[simp] theorem State.scrambleReader_res (s : State) : s.scrambleReader.res = s.res := rfl
@[simp] theorem State.scrambleReader_resValid (s : State) : s.scrambleReader.resValid = s.resValid := rfl
@[simp] theorem State.scrambleReader_opstate (s : State) : s.scrambleReader.opstate = s.opstate := rfl
@[simp] theorem State.scrambleReader_bstate (s : State) : s.scrambleReader.bstate = s.bstate := rfl
@[simp] theorem State.scrambleReader_rem (s : State) : s.scrambleReader.rem = s.rem := rfl
@[simp] theorem State.scrambleReader_shift (s : State) : s.scrambleReader.shift = s.shift := rfl
@[simp] theorem State.scrambleReader_bitidx (s : State) : s.scrambleReader.bitidx = s.bitidx := rfl
@[simp] theorem State.scrambleReader_frame (s : State) : s.scrambleReader.frame = s.frame := rfl
@[simp] theorem State.scrambleReader_trace (s : State) : s.scrambleReader.trace = s.trace := rfl
@[simp] theorem State.scrambleReader_ddsReady (s : State) : s.scrambleReader.ddsReady = s.ddsReady := rfl
@[simp] theorem State.scrambleReader_fault (s : State) : s.scrambleReader.fault = s.fault := rfl
@[simp] theorem State.scrambleReader_refusals (s : State) : s.scrambleReader.refusals = s.refusals := rfl
@[simp] theorem State.scrambleReader_reads (s : State) : s.scrambleReader.reads = s.reads := rfl
@[simp] theorem State.scrambleReader_stage (s : State) : s.scrambleReader.stage = Config.freeStage s.draws := rfl
@[simp] theorem State.scrambleReader_freq (s : State) : s.scrambleReader.freq = Config.freeFreq s.draws := rfl
@[simp] theorem State.scrambleReader_rx (s : State) : s.scrambleReader.rx = s.rx := rfl
@[simp] theorem State.scrambleReader_draws (s : State) : s.scrambleReader.draws = s.draws + 1 := rfl
@[simp] theorem State.scrambleReader_encA (s : State) : s.scrambleReader.encA = s.encA := rfl
@[simp] theorem State.scrambleReader_encB (s : State) : s.scrambleReader.encB = s.encB := rfl
@[simp] theorem State.scrambleReader_btnN (s : State) : s.scrambleReader.btnN = s.btnN := rfl
@[simp] theorem State.scrambleReader_cfg (s : State) : s.scrambleReader.cfg = s.cfg := rfl
@[simp] theorem State.scrambleReader_agenda (s : State) : s.scrambleReader.agenda = s.agenda := rfl

/-! ### `State.raiseFault` -/

@[simp] theorem State.raiseFault_acc (r : Fault) (s : State) : (s.raiseFault r).acc = s.acc := by cases r <;> rfl
@[simp] theorem State.raiseFault_imask (r : Fault) (s : State) : (s.raiseFault r).imask = s.imask := by cases r <;> rfl
@[simp] theorem State.raiseFault_imaskSaved (r : Fault) (s : State) : (s.raiseFault r).imaskSaved = s.imaskSaved := by cases r <;> rfl
@[simp] theorem State.raiseFault_pend (r : Fault) (s : State) : (s.raiseFault r).pend = s.pend := by cases r <;> rfl
@[simp] theorem State.raiseFault_encALast (r : Fault) (s : State) : (s.raiseFault r).encALast = s.encALast := by cases r <;> rfl
@[simp] theorem State.raiseFault_fsyncN (r : Fault) (s : State) : (s.raiseFault r).fsyncN = s.fsyncN := by cases r <;> rfl
@[simp] theorem State.raiseFault_sclk (r : Fault) (s : State) : (s.raiseFault r).sclk = s.sclk := by cases r <;> rfl
@[simp] theorem State.raiseFault_sdata (r : Fault) (s : State) : (s.raiseFault r).sdata = s.sdata := by cases r <;> rfl
@[simp] theorem State.raiseFault_relay (r : Fault) (s : State) : (s.raiseFault r).relay = s.relay := by cases r <;> rfl
@[simp] theorem State.raiseFault_op (r : Fault) (s : State) : (s.raiseFault r).op = s.op := by cases r <;> rfl
@[simp] theorem State.raiseFault_opa (r : Fault) (s : State) : (s.raiseFault r).opa = s.opa := by cases r <;> rfl
@[simp] theorem State.raiseFault_opb (r : Fault) (s : State) : (s.raiseFault r).opb = s.opb := by cases r <;> rfl
@[simp] theorem State.raiseFault_res (r : Fault) (s : State) : (s.raiseFault r).res = s.res := by cases r <;> rfl
@[simp] theorem State.raiseFault_resValid (r : Fault) (s : State) : (s.raiseFault r).resValid = s.resValid := by cases r <;> rfl
@[simp] theorem State.raiseFault_opstate (r : Fault) (s : State) : (s.raiseFault r).opstate = s.opstate := by cases r <;> rfl
@[simp] theorem State.raiseFault_bstate (r : Fault) (s : State) : (s.raiseFault r).bstate = s.bstate := by cases r <;> rfl
@[simp] theorem State.raiseFault_rem (r : Fault) (s : State) : (s.raiseFault r).rem = s.rem := by cases r <;> rfl
@[simp] theorem State.raiseFault_shift (r : Fault) (s : State) : (s.raiseFault r).shift = s.shift := by cases r <;> rfl
@[simp] theorem State.raiseFault_bitidx (r : Fault) (s : State) : (s.raiseFault r).bitidx = s.bitidx := by cases r <;> rfl
@[simp] theorem State.raiseFault_frame (r : Fault) (s : State) : (s.raiseFault r).frame = s.frame := by cases r <;> rfl
@[simp] theorem State.raiseFault_trace (r : Fault) (s : State) : (s.raiseFault r).trace = s.trace := by cases r <;> rfl
@[simp] theorem State.raiseFault_ddsReady (r : Fault) (s : State) : (s.raiseFault r).ddsReady = s.ddsReady := by cases r <;> rfl
@[simp] theorem State.raiseFault_refusals (r : Fault) (s : State) : (s.raiseFault r).refusals = s.refusals := by cases r <;> rfl
@[simp] theorem State.raiseFault_reads (r : Fault) (s : State) : (s.raiseFault r).reads = s.reads := by cases r <;> rfl
@[simp] theorem State.raiseFault_stage (r : Fault) (s : State) : (s.raiseFault r).stage = s.stage := by cases r <;> rfl
@[simp] theorem State.raiseFault_freq (r : Fault) (s : State) : (s.raiseFault r).freq = s.freq := by cases r <;> rfl
@[simp] theorem State.raiseFault_rx (r : Fault) (s : State) : (s.raiseFault r).rx = s.rx := by cases r <;> rfl
@[simp] theorem State.raiseFault_draws (r : Fault) (s : State) : (s.raiseFault r).draws = s.draws := by cases r <;> rfl
@[simp] theorem State.raiseFault_encA (r : Fault) (s : State) : (s.raiseFault r).encA = s.encA := by cases r <;> rfl
@[simp] theorem State.raiseFault_encB (r : Fault) (s : State) : (s.raiseFault r).encB = s.encB := by cases r <;> rfl
@[simp] theorem State.raiseFault_btnN (r : Fault) (s : State) : (s.raiseFault r).btnN = s.btnN := by cases r <;> rfl
@[simp] theorem State.raiseFault_cfg (r : Fault) (s : State) : (s.raiseFault r).cfg = s.cfg := by cases r <;> rfl
@[simp] theorem State.raiseFault_agenda (r : Fault) (s : State) : (s.raiseFault r).agenda = s.agenda := by cases r <;> rfl

/-! ### `State.checkReady` -/

@[simp] theorem State.checkReady_acc (s : State) : s.checkReady.acc = s.acc := by unfold State.checkReady; split <;> rfl
@[simp] theorem State.checkReady_imask (s : State) : s.checkReady.imask = s.imask := by unfold State.checkReady; split <;> rfl
@[simp] theorem State.checkReady_imaskSaved (s : State) : s.checkReady.imaskSaved = s.imaskSaved := by unfold State.checkReady; split <;> rfl
@[simp] theorem State.checkReady_pend (s : State) : s.checkReady.pend = s.pend := by unfold State.checkReady; split <;> rfl
@[simp] theorem State.checkReady_encALast (s : State) : s.checkReady.encALast = s.encALast := by unfold State.checkReady; split <;> rfl
@[simp] theorem State.checkReady_fsyncN (s : State) : s.checkReady.fsyncN = s.fsyncN := by unfold State.checkReady; split <;> rfl
@[simp] theorem State.checkReady_sclk (s : State) : s.checkReady.sclk = s.sclk := by unfold State.checkReady; split <;> rfl
@[simp] theorem State.checkReady_sdata (s : State) : s.checkReady.sdata = s.sdata := by unfold State.checkReady; split <;> rfl
@[simp] theorem State.checkReady_relay (s : State) : s.checkReady.relay = s.relay := by unfold State.checkReady; split <;> rfl
@[simp] theorem State.checkReady_op (s : State) : s.checkReady.op = s.op := by unfold State.checkReady; split <;> rfl
@[simp] theorem State.checkReady_opa (s : State) : s.checkReady.opa = s.opa := by unfold State.checkReady; split <;> rfl
@[simp] theorem State.checkReady_opb (s : State) : s.checkReady.opb = s.opb := by unfold State.checkReady; split <;> rfl
@[simp] theorem State.checkReady_res (s : State) : s.checkReady.res = s.res := by unfold State.checkReady; split <;> rfl
@[simp] theorem State.checkReady_resValid (s : State) : s.checkReady.resValid = s.resValid := by unfold State.checkReady; split <;> rfl
@[simp] theorem State.checkReady_opstate (s : State) : s.checkReady.opstate = s.opstate := by unfold State.checkReady; split <;> rfl
@[simp] theorem State.checkReady_bstate (s : State) : s.checkReady.bstate = s.bstate := by unfold State.checkReady; split <;> rfl
@[simp] theorem State.checkReady_rem (s : State) : s.checkReady.rem = s.rem := by unfold State.checkReady; split <;> rfl
@[simp] theorem State.checkReady_shift (s : State) : s.checkReady.shift = s.shift := by unfold State.checkReady; split <;> rfl
@[simp] theorem State.checkReady_bitidx (s : State) : s.checkReady.bitidx = s.bitidx := by unfold State.checkReady; split <;> rfl
@[simp] theorem State.checkReady_frame (s : State) : s.checkReady.frame = s.frame := by unfold State.checkReady; split <;> rfl
@[simp] theorem State.checkReady_trace (s : State) : s.checkReady.trace = s.trace := by unfold State.checkReady; split <;> rfl
@[simp] theorem State.checkReady_ddsReady (s : State) : s.checkReady.ddsReady = s.ddsReady := by unfold State.checkReady; split <;> rfl
@[simp] theorem State.checkReady_refusals (s : State) : s.checkReady.refusals = s.refusals := by unfold State.checkReady; split <;> rfl
@[simp] theorem State.checkReady_reads (s : State) : s.checkReady.reads = s.reads := by unfold State.checkReady; split <;> rfl
@[simp] theorem State.checkReady_stage (s : State) : s.checkReady.stage = s.stage := by unfold State.checkReady; split <;> rfl
@[simp] theorem State.checkReady_freq (s : State) : s.checkReady.freq = s.freq := by unfold State.checkReady; split <;> rfl
@[simp] theorem State.checkReady_rx (s : State) : s.checkReady.rx = s.rx := by unfold State.checkReady; split <;> rfl
@[simp] theorem State.checkReady_draws (s : State) : s.checkReady.draws = s.draws := by unfold State.checkReady; split <;> rfl
@[simp] theorem State.checkReady_encA (s : State) : s.checkReady.encA = s.encA := by unfold State.checkReady; split <;> rfl
@[simp] theorem State.checkReady_encB (s : State) : s.checkReady.encB = s.encB := by unfold State.checkReady; split <;> rfl
@[simp] theorem State.checkReady_btnN (s : State) : s.checkReady.btnN = s.btnN := by unfold State.checkReady; split <;> rfl
@[simp] theorem State.checkReady_cfg (s : State) : s.checkReady.cfg = s.cfg := by unfold State.checkReady; split <;> rfl
@[simp] theorem State.checkReady_agenda (s : State) : s.checkReady.agenda = s.agenda := by unfold State.checkReady; split <;> rfl

/-! ### `State.drive` -/

@[simp] theorem State.drive_acc (p : Pin) (b : Bool) (s : State) : (s.drive p b).acc = s.acc := by cases p <;> rfl
@[simp] theorem State.drive_imask (p : Pin) (b : Bool) (s : State) : (s.drive p b).imask = s.imask := by cases p <;> rfl
@[simp] theorem State.drive_imaskSaved (p : Pin) (b : Bool) (s : State) : (s.drive p b).imaskSaved = s.imaskSaved := by cases p <;> rfl
@[simp] theorem State.drive_pend (p : Pin) (b : Bool) (s : State) : (s.drive p b).pend = s.pend := by cases p <;> rfl
@[simp] theorem State.drive_encALast (p : Pin) (b : Bool) (s : State) : (s.drive p b).encALast = s.encALast := by cases p <;> rfl
@[simp] theorem State.drive_op (p : Pin) (b : Bool) (s : State) : (s.drive p b).op = s.op := by cases p <;> rfl
@[simp] theorem State.drive_opa (p : Pin) (b : Bool) (s : State) : (s.drive p b).opa = s.opa := by cases p <;> rfl
@[simp] theorem State.drive_opb (p : Pin) (b : Bool) (s : State) : (s.drive p b).opb = s.opb := by cases p <;> rfl
@[simp] theorem State.drive_res (p : Pin) (b : Bool) (s : State) : (s.drive p b).res = s.res := by cases p <;> rfl
@[simp] theorem State.drive_resValid (p : Pin) (b : Bool) (s : State) : (s.drive p b).resValid = s.resValid := by cases p <;> rfl
@[simp] theorem State.drive_opstate (p : Pin) (b : Bool) (s : State) : (s.drive p b).opstate = s.opstate := by cases p <;> rfl
@[simp] theorem State.drive_bstate (p : Pin) (b : Bool) (s : State) : (s.drive p b).bstate = s.bstate := by cases p <;> rfl
@[simp] theorem State.drive_rem (p : Pin) (b : Bool) (s : State) : (s.drive p b).rem = s.rem := by cases p <;> rfl
@[simp] theorem State.drive_shift (p : Pin) (b : Bool) (s : State) : (s.drive p b).shift = s.shift := by cases p <;> rfl
@[simp] theorem State.drive_bitidx (p : Pin) (b : Bool) (s : State) : (s.drive p b).bitidx = s.bitidx := by cases p <;> rfl
@[simp] theorem State.drive_frame (p : Pin) (b : Bool) (s : State) : (s.drive p b).frame = s.frame := by cases p <;> rfl
@[simp] theorem State.drive_trace (p : Pin) (b : Bool) (s : State) : (s.drive p b).trace = s.trace ++ [(p, b)] := by cases p <;> rfl
@[simp] theorem State.drive_ddsReady (p : Pin) (b : Bool) (s : State) : (s.drive p b).ddsReady = s.ddsReady := by cases p <;> rfl
@[simp] theorem State.drive_fault (p : Pin) (b : Bool) (s : State) : (s.drive p b).fault = s.fault := by cases p <;> rfl
@[simp] theorem State.drive_refusals (p : Pin) (b : Bool) (s : State) : (s.drive p b).refusals = s.refusals := by cases p <;> rfl
@[simp] theorem State.drive_reads (p : Pin) (b : Bool) (s : State) : (s.drive p b).reads = s.reads := by cases p <;> rfl
@[simp] theorem State.drive_stage (p : Pin) (b : Bool) (s : State) : (s.drive p b).stage = s.stage := by cases p <;> rfl
@[simp] theorem State.drive_freq (p : Pin) (b : Bool) (s : State) : (s.drive p b).freq = s.freq := by cases p <;> rfl
@[simp] theorem State.drive_draws (p : Pin) (b : Bool) (s : State) : (s.drive p b).draws = s.draws := by cases p <;> rfl
@[simp] theorem State.drive_encA (p : Pin) (b : Bool) (s : State) : (s.drive p b).encA = s.encA := by cases p <;> rfl
@[simp] theorem State.drive_encB (p : Pin) (b : Bool) (s : State) : (s.drive p b).encB = s.encB := by cases p <;> rfl
@[simp] theorem State.drive_btnN (p : Pin) (b : Bool) (s : State) : (s.drive p b).btnN = s.btnN := by cases p <;> rfl
@[simp] theorem State.drive_cfg (p : Pin) (b : Bool) (s : State) : (s.drive p b).cfg = s.cfg := by cases p <;> rfl
@[simp] theorem State.drive_agenda (p : Pin) (b : Bool) (s : State) : (s.drive p b).agenda = s.agenda := by cases p <;> rfl

/-! ### `State.edgeService` -/

@[simp] theorem State.edgeService_imask (s : State) : s.edgeService.imask = s.imask := by unfold State.edgeService; split <;> rfl
@[simp] theorem State.edgeService_imaskSaved (s : State) : s.edgeService.imaskSaved = s.imaskSaved := by unfold State.edgeService; split <;> rfl
@[simp] theorem State.edgeService_encALast (s : State) : s.edgeService.encALast = s.encALast := by unfold State.edgeService; split <;> rfl
@[simp] theorem State.edgeService_fsyncN (s : State) : s.edgeService.fsyncN = s.fsyncN := by unfold State.edgeService; split <;> rfl
@[simp] theorem State.edgeService_sclk (s : State) : s.edgeService.sclk = s.sclk := by unfold State.edgeService; split <;> rfl
@[simp] theorem State.edgeService_sdata (s : State) : s.edgeService.sdata = s.sdata := by unfold State.edgeService; split <;> rfl
@[simp] theorem State.edgeService_relay (s : State) : s.edgeService.relay = s.relay := by unfold State.edgeService; split <;> rfl
@[simp] theorem State.edgeService_op (s : State) : s.edgeService.op = s.op := by unfold State.edgeService; split <;> rfl
@[simp] theorem State.edgeService_opa (s : State) : s.edgeService.opa = s.opa := by unfold State.edgeService; split <;> rfl
@[simp] theorem State.edgeService_opb (s : State) : s.edgeService.opb = s.opb := by unfold State.edgeService; split <;> rfl
@[simp] theorem State.edgeService_res (s : State) : s.edgeService.res = s.res := by unfold State.edgeService; split <;> rfl
@[simp] theorem State.edgeService_resValid (s : State) : s.edgeService.resValid = s.resValid := by unfold State.edgeService; split <;> rfl
@[simp] theorem State.edgeService_opstate (s : State) : s.edgeService.opstate = s.opstate := by unfold State.edgeService; split <;> rfl
@[simp] theorem State.edgeService_bstate (s : State) : s.edgeService.bstate = s.bstate := by unfold State.edgeService; split <;> rfl
@[simp] theorem State.edgeService_rem (s : State) : s.edgeService.rem = s.rem := by unfold State.edgeService; split <;> rfl
@[simp] theorem State.edgeService_shift (s : State) : s.edgeService.shift = s.shift := by unfold State.edgeService; split <;> rfl
@[simp] theorem State.edgeService_bitidx (s : State) : s.edgeService.bitidx = s.bitidx := by unfold State.edgeService; split <;> rfl
@[simp] theorem State.edgeService_frame (s : State) : s.edgeService.frame = s.frame := by unfold State.edgeService; split <;> rfl
@[simp] theorem State.edgeService_trace (s : State) : s.edgeService.trace = s.trace := by unfold State.edgeService; split <;> rfl
@[simp] theorem State.edgeService_ddsReady (s : State) : s.edgeService.ddsReady = s.ddsReady := by unfold State.edgeService; split <;> rfl
@[simp] theorem State.edgeService_fault (s : State) : s.edgeService.fault = s.fault := by unfold State.edgeService; split <;> rfl
@[simp] theorem State.edgeService_refusals (s : State) : s.edgeService.refusals = s.refusals := by unfold State.edgeService; split <;> rfl
@[simp] theorem State.edgeService_reads (s : State) : s.edgeService.reads = s.reads := by unfold State.edgeService; split <;> rfl
@[simp] theorem State.edgeService_stage (s : State) : s.edgeService.stage = s.stage := by unfold State.edgeService; split <;> rfl
@[simp] theorem State.edgeService_freq (s : State) : s.edgeService.freq = s.freq := by unfold State.edgeService; split <;> rfl
@[simp] theorem State.edgeService_rx (s : State) : s.edgeService.rx = s.rx := by unfold State.edgeService; split <;> rfl
@[simp] theorem State.edgeService_draws (s : State) : s.edgeService.draws = s.draws := by unfold State.edgeService; split <;> rfl
@[simp] theorem State.edgeService_encA (s : State) : s.edgeService.encA = s.encA := by unfold State.edgeService; split <;> rfl
@[simp] theorem State.edgeService_encB (s : State) : s.edgeService.encB = s.encB := by unfold State.edgeService; split <;> rfl
@[simp] theorem State.edgeService_btnN (s : State) : s.edgeService.btnN = s.btnN := by unfold State.edgeService; split <;> rfl
@[simp] theorem State.edgeService_cfg (s : State) : s.edgeService.cfg = s.cfg := by unfold State.edgeService; split <;> rfl
@[simp] theorem State.edgeService_agenda (s : State) : s.edgeService.agenda = s.agenda := by unfold State.edgeService; split <;> rfl

/-! ### `State.setImask` -/

@[simp] theorem State.setImask_imask (m : Bool) (s : State) : (s.setImask m).imask = m := by unfold State.setImask State.edgeService; split <;> rfl
@[simp] theorem State.setImask_imaskSaved (m : Bool) (s : State) : (s.setImask m).imaskSaved = s.imaskSaved := by unfold State.setImask State.edgeService; split <;> rfl
@[simp] theorem State.setImask_encALast (m : Bool) (s : State) : (s.setImask m).encALast = s.encALast := by unfold State.setImask State.edgeService; split <;> rfl
@[simp] theorem State.setImask_fsyncN (m : Bool) (s : State) : (s.setImask m).fsyncN = s.fsyncN := by unfold State.setImask State.edgeService; split <;> rfl
@[simp] theorem State.setImask_sclk (m : Bool) (s : State) : (s.setImask m).sclk = s.sclk := by unfold State.setImask State.edgeService; split <;> rfl
@[simp] theorem State.setImask_sdata (m : Bool) (s : State) : (s.setImask m).sdata = s.sdata := by unfold State.setImask State.edgeService; split <;> rfl
@[simp] theorem State.setImask_relay (m : Bool) (s : State) : (s.setImask m).relay = s.relay := by unfold State.setImask State.edgeService; split <;> rfl
@[simp] theorem State.setImask_op (m : Bool) (s : State) : (s.setImask m).op = s.op := by unfold State.setImask State.edgeService; split <;> rfl
@[simp] theorem State.setImask_opa (m : Bool) (s : State) : (s.setImask m).opa = s.opa := by unfold State.setImask State.edgeService; split <;> rfl
@[simp] theorem State.setImask_opb (m : Bool) (s : State) : (s.setImask m).opb = s.opb := by unfold State.setImask State.edgeService; split <;> rfl
@[simp] theorem State.setImask_res (m : Bool) (s : State) : (s.setImask m).res = s.res := by unfold State.setImask State.edgeService; split <;> rfl
@[simp] theorem State.setImask_resValid (m : Bool) (s : State) : (s.setImask m).resValid = s.resValid := by unfold State.setImask State.edgeService; split <;> rfl
@[simp] theorem State.setImask_opstate (m : Bool) (s : State) : (s.setImask m).opstate = s.opstate := by unfold State.setImask State.edgeService; split <;> rfl
@[simp] theorem State.setImask_bstate (m : Bool) (s : State) : (s.setImask m).bstate = s.bstate := by unfold State.setImask State.edgeService; split <;> rfl
@[simp] theorem State.setImask_rem (m : Bool) (s : State) : (s.setImask m).rem = s.rem := by unfold State.setImask State.edgeService; split <;> rfl
@[simp] theorem State.setImask_shift (m : Bool) (s : State) : (s.setImask m).shift = s.shift := by unfold State.setImask State.edgeService; split <;> rfl
@[simp] theorem State.setImask_bitidx (m : Bool) (s : State) : (s.setImask m).bitidx = s.bitidx := by unfold State.setImask State.edgeService; split <;> rfl
@[simp] theorem State.setImask_frame (m : Bool) (s : State) : (s.setImask m).frame = s.frame := by unfold State.setImask State.edgeService; split <;> rfl
@[simp] theorem State.setImask_trace (m : Bool) (s : State) : (s.setImask m).trace = s.trace := by unfold State.setImask State.edgeService; split <;> rfl
@[simp] theorem State.setImask_ddsReady (m : Bool) (s : State) : (s.setImask m).ddsReady = s.ddsReady := by unfold State.setImask State.edgeService; split <;> rfl
@[simp] theorem State.setImask_fault (m : Bool) (s : State) : (s.setImask m).fault = s.fault := by unfold State.setImask State.edgeService; split <;> rfl
@[simp] theorem State.setImask_refusals (m : Bool) (s : State) : (s.setImask m).refusals = s.refusals := by unfold State.setImask State.edgeService; split <;> rfl
@[simp] theorem State.setImask_reads (m : Bool) (s : State) : (s.setImask m).reads = s.reads := by unfold State.setImask State.edgeService; split <;> rfl
@[simp] theorem State.setImask_stage (m : Bool) (s : State) : (s.setImask m).stage = s.stage := by unfold State.setImask State.edgeService; split <;> rfl
@[simp] theorem State.setImask_freq (m : Bool) (s : State) : (s.setImask m).freq = s.freq := by unfold State.setImask State.edgeService; split <;> rfl
@[simp] theorem State.setImask_rx (m : Bool) (s : State) : (s.setImask m).rx = s.rx := by unfold State.setImask State.edgeService; split <;> rfl
@[simp] theorem State.setImask_draws (m : Bool) (s : State) : (s.setImask m).draws = s.draws := by unfold State.setImask State.edgeService; split <;> rfl
@[simp] theorem State.setImask_encA (m : Bool) (s : State) : (s.setImask m).encA = s.encA := by unfold State.setImask State.edgeService; split <;> rfl
@[simp] theorem State.setImask_encB (m : Bool) (s : State) : (s.setImask m).encB = s.encB := by unfold State.setImask State.edgeService; split <;> rfl
@[simp] theorem State.setImask_btnN (m : Bool) (s : State) : (s.setImask m).btnN = s.btnN := by unfold State.setImask State.edgeService; split <;> rfl
@[simp] theorem State.setImask_cfg (m : Bool) (s : State) : (s.setImask m).cfg = s.cfg := by unfold State.setImask State.edgeService; split <;> rfl
@[simp] theorem State.setImask_agenda (m : Bool) (s : State) : (s.setImask m).agenda = s.agenda := by unfold State.setImask State.edgeService; split <;> rfl

/-! ### `State.takeEdge` -/

@[simp] theorem State.takeEdge_imask (s : State) : s.takeEdge.imask = s.imask := by unfold State.takeEdge; split <;> rfl
@[simp] theorem State.takeEdge_imaskSaved (s : State) : s.takeEdge.imaskSaved = s.imaskSaved := by unfold State.takeEdge; split <;> rfl
@[simp] theorem State.takeEdge_encALast (s : State) : s.takeEdge.encALast = s.encALast := by unfold State.takeEdge; split <;> rfl
@[simp] theorem State.takeEdge_fsyncN (s : State) : s.takeEdge.fsyncN = s.fsyncN := by unfold State.takeEdge; split <;> rfl
@[simp] theorem State.takeEdge_sclk (s : State) : s.takeEdge.sclk = s.sclk := by unfold State.takeEdge; split <;> rfl
@[simp] theorem State.takeEdge_sdata (s : State) : s.takeEdge.sdata = s.sdata := by unfold State.takeEdge; split <;> rfl
@[simp] theorem State.takeEdge_relay (s : State) : s.takeEdge.relay = s.relay := by unfold State.takeEdge; split <;> rfl
@[simp] theorem State.takeEdge_op (s : State) : s.takeEdge.op = s.op := by unfold State.takeEdge; split <;> rfl
@[simp] theorem State.takeEdge_opa (s : State) : s.takeEdge.opa = s.opa := by unfold State.takeEdge; split <;> rfl
@[simp] theorem State.takeEdge_opb (s : State) : s.takeEdge.opb = s.opb := by unfold State.takeEdge; split <;> rfl
@[simp] theorem State.takeEdge_res (s : State) : s.takeEdge.res = s.res := by unfold State.takeEdge; split <;> rfl
@[simp] theorem State.takeEdge_resValid (s : State) : s.takeEdge.resValid = s.resValid := by unfold State.takeEdge; split <;> rfl
@[simp] theorem State.takeEdge_opstate (s : State) : s.takeEdge.opstate = s.opstate := by unfold State.takeEdge; split <;> rfl
@[simp] theorem State.takeEdge_bstate (s : State) : s.takeEdge.bstate = s.bstate := by unfold State.takeEdge; split <;> rfl
@[simp] theorem State.takeEdge_rem (s : State) : s.takeEdge.rem = s.rem := by unfold State.takeEdge; split <;> rfl
@[simp] theorem State.takeEdge_shift (s : State) : s.takeEdge.shift = s.shift := by unfold State.takeEdge; split <;> rfl
@[simp] theorem State.takeEdge_bitidx (s : State) : s.takeEdge.bitidx = s.bitidx := by unfold State.takeEdge; split <;> rfl
@[simp] theorem State.takeEdge_frame (s : State) : s.takeEdge.frame = s.frame := by unfold State.takeEdge; split <;> rfl
@[simp] theorem State.takeEdge_trace (s : State) : s.takeEdge.trace = s.trace := by unfold State.takeEdge; split <;> rfl
@[simp] theorem State.takeEdge_ddsReady (s : State) : s.takeEdge.ddsReady = s.ddsReady := by unfold State.takeEdge; split <;> rfl
@[simp] theorem State.takeEdge_fault (s : State) : s.takeEdge.fault = s.fault := by unfold State.takeEdge; split <;> rfl
@[simp] theorem State.takeEdge_refusals (s : State) : s.takeEdge.refusals = s.refusals := by unfold State.takeEdge; split <;> rfl
@[simp] theorem State.takeEdge_reads (s : State) : s.takeEdge.reads = s.reads := by unfold State.takeEdge; split <;> rfl
@[simp] theorem State.takeEdge_stage (s : State) : s.takeEdge.stage = s.stage := by unfold State.takeEdge; split <;> rfl
@[simp] theorem State.takeEdge_freq (s : State) : s.takeEdge.freq = s.freq := by unfold State.takeEdge; split <;> rfl
@[simp] theorem State.takeEdge_rx (s : State) : s.takeEdge.rx = s.rx := by unfold State.takeEdge; split <;> rfl
@[simp] theorem State.takeEdge_draws (s : State) : s.takeEdge.draws = s.draws := by unfold State.takeEdge; split <;> rfl
@[simp] theorem State.takeEdge_encA (s : State) : s.takeEdge.encA = s.encA := by unfold State.takeEdge; split <;> rfl
@[simp] theorem State.takeEdge_encB (s : State) : s.takeEdge.encB = s.encB := by unfold State.takeEdge; split <;> rfl
@[simp] theorem State.takeEdge_btnN (s : State) : s.takeEdge.btnN = s.btnN := by unfold State.takeEdge; split <;> rfl
@[simp] theorem State.takeEdge_cfg (s : State) : s.takeEdge.cfg = s.cfg := by unfold State.takeEdge; split <;> rfl
@[simp] theorem State.takeEdge_agenda (s : State) : s.takeEdge.agenda = s.agenda := by unfold State.takeEdge; split <;> rfl

/-! ### `State.readRes` -/

@[simp] theorem State.readRes_acc (s : State) : s.readRes.acc = s.acc := by unfold State.readRes; split <;> rfl
@[simp] theorem State.readRes_imask (s : State) : s.readRes.imask = s.imask := by unfold State.readRes; split <;> rfl
@[simp] theorem State.readRes_imaskSaved (s : State) : s.readRes.imaskSaved = s.imaskSaved := by unfold State.readRes; split <;> rfl
@[simp] theorem State.readRes_pend (s : State) : s.readRes.pend = s.pend := by unfold State.readRes; split <;> rfl
@[simp] theorem State.readRes_encALast (s : State) : s.readRes.encALast = s.encALast := by unfold State.readRes; split <;> rfl
@[simp] theorem State.readRes_fsyncN (s : State) : s.readRes.fsyncN = s.fsyncN := by unfold State.readRes; split <;> rfl
@[simp] theorem State.readRes_sclk (s : State) : s.readRes.sclk = s.sclk := by unfold State.readRes; split <;> rfl
@[simp] theorem State.readRes_sdata (s : State) : s.readRes.sdata = s.sdata := by unfold State.readRes; split <;> rfl
@[simp] theorem State.readRes_relay (s : State) : s.readRes.relay = s.relay := by unfold State.readRes; split <;> rfl
@[simp] theorem State.readRes_op (s : State) : s.readRes.op = s.op := by unfold State.readRes; split <;> rfl
@[simp] theorem State.readRes_opa (s : State) : s.readRes.opa = s.opa := by unfold State.readRes; split <;> rfl
@[simp] theorem State.readRes_opb (s : State) : s.readRes.opb = s.opb := by unfold State.readRes; split <;> rfl
@[simp] theorem State.readRes_res (s : State) : s.readRes.res = s.res := by unfold State.readRes; split <;> rfl
@[simp] theorem State.readRes_resValid (s : State) : s.readRes.resValid = s.resValid := by unfold State.readRes; split <;> rfl
@[simp] theorem State.readRes_opstate (s : State) : s.readRes.opstate = s.opstate := by unfold State.readRes; split <;> rfl
@[simp] theorem State.readRes_bstate (s : State) : s.readRes.bstate = s.bstate := by unfold State.readRes; split <;> rfl
@[simp] theorem State.readRes_rem (s : State) : s.readRes.rem = s.rem := by unfold State.readRes; split <;> rfl
@[simp] theorem State.readRes_shift (s : State) : s.readRes.shift = s.shift := by unfold State.readRes; split <;> rfl
@[simp] theorem State.readRes_bitidx (s : State) : s.readRes.bitidx = s.bitidx := by unfold State.readRes; split <;> rfl
@[simp] theorem State.readRes_frame (s : State) : s.readRes.frame = s.frame := by unfold State.readRes; split <;> rfl
@[simp] theorem State.readRes_trace (s : State) : s.readRes.trace = s.trace := by unfold State.readRes; split <;> rfl
@[simp] theorem State.readRes_ddsReady (s : State) : s.readRes.ddsReady = s.ddsReady := by unfold State.readRes; split <;> rfl
@[simp] theorem State.readRes_refusals (s : State) : s.readRes.refusals = s.refusals := by unfold State.readRes; split <;> rfl
@[simp] theorem State.readRes_stage (s : State) : s.readRes.stage = s.stage := by unfold State.readRes; split <;> rfl
@[simp] theorem State.readRes_freq (s : State) : s.readRes.freq = s.freq := by unfold State.readRes; split <;> rfl
@[simp] theorem State.readRes_rx (s : State) : s.readRes.rx = s.rx := by unfold State.readRes; split <;> rfl
@[simp] theorem State.readRes_draws (s : State) : s.readRes.draws = s.draws := by unfold State.readRes; split <;> rfl
@[simp] theorem State.readRes_encA (s : State) : s.readRes.encA = s.encA := by unfold State.readRes; split <;> rfl
@[simp] theorem State.readRes_encB (s : State) : s.readRes.encB = s.encB := by unfold State.readRes; split <;> rfl
@[simp] theorem State.readRes_btnN (s : State) : s.readRes.btnN = s.btnN := by unfold State.readRes; split <;> rfl
@[simp] theorem State.readRes_cfg (s : State) : s.readRes.cfg = s.cfg := by unfold State.readRes; split <;> rfl
@[simp] theorem State.readRes_agenda (s : State) : s.readRes.agenda = s.agenda := by unfold State.readRes; split <;> rfl

/-! ### `State.drive`, pin by pin -/

@[simp] theorem State.drive_fsyncN_fsyncN (b : Bool) (s : State) : (s.drive .fsyncN b).fsyncN = b := rfl
@[simp] theorem State.drive_fsyncN_sclk (b : Bool) (s : State) : (s.drive .fsyncN b).sclk = s.sclk := rfl
@[simp] theorem State.drive_fsyncN_sdata (b : Bool) (s : State) : (s.drive .fsyncN b).sdata = s.sdata := rfl
@[simp] theorem State.drive_fsyncN_relay (b : Bool) (s : State) : (s.drive .fsyncN b).relay = s.relay := rfl
@[simp] theorem State.drive_fsyncN_rx (b : Bool) (s : State) : (s.drive .fsyncN b).rx = if s.fsyncN && !b then 0 else s.rx := rfl
@[simp] theorem State.drive_sclk_fsyncN (b : Bool) (s : State) : (s.drive .sclk b).fsyncN = s.fsyncN := rfl
@[simp] theorem State.drive_sclk_sclk (b : Bool) (s : State) : (s.drive .sclk b).sclk = b := rfl
@[simp] theorem State.drive_sclk_sdata (b : Bool) (s : State) : (s.drive .sclk b).sdata = s.sdata := rfl
@[simp] theorem State.drive_sclk_relay (b : Bool) (s : State) : (s.drive .sclk b).relay = s.relay := rfl
@[simp] theorem State.drive_sclk_rx (b : Bool) (s : State) : (s.drive .sclk b).rx = rxAfterClock s b := rfl
@[simp] theorem State.drive_sdata_fsyncN (b : Bool) (s : State) : (s.drive .sdata b).fsyncN = s.fsyncN := rfl
@[simp] theorem State.drive_sdata_sclk (b : Bool) (s : State) : (s.drive .sdata b).sclk = s.sclk := rfl
@[simp] theorem State.drive_sdata_sdata (b : Bool) (s : State) : (s.drive .sdata b).sdata = b := rfl
@[simp] theorem State.drive_sdata_relay (b : Bool) (s : State) : (s.drive .sdata b).relay = s.relay := rfl
@[simp] theorem State.drive_sdata_rx (b : Bool) (s : State) : (s.drive .sdata b).rx = s.rx := rfl
@[simp] theorem State.drive_relay_fsyncN (b : Bool) (s : State) : (s.drive .relay b).fsyncN = s.fsyncN := rfl
@[simp] theorem State.drive_relay_sclk (b : Bool) (s : State) : (s.drive .relay b).sclk = s.sclk := rfl
@[simp] theorem State.drive_relay_sdata (b : Bool) (s : State) : (s.drive .relay b).sdata = s.sdata := rfl
@[simp] theorem State.drive_relay_relay (b : Bool) (s : State) : (s.drive .relay b).relay = b := rfl
@[simp] theorem State.drive_relay_rx (b : Bool) (s : State) : (s.drive .relay b).rx = s.rx := rfl

end Sys2Proof.Machine
end

