-- ==== Sys2Proof/Laws/Ops.lean ====
section
/-! SUPPORT. What each shared operation can do, said once; the proofs cite these lemmas instead of unfolding the
operations. -/

namespace Sys2Proof.Machine

/-! ### Guards and outcomes -/

theorem whenIdle_of_idle {s : State} (h : s.opstate = .idle) (f : State → State) : whenIdle s f = .next (f s) := by
  simp [whenIdle, h]

/-- A host operation that answers a next state was asked for while idle. -/
theorem whenIdle_next {s t : State} {f : State → State} (h : whenIdle s f = .next t) :
    s.opstate = .idle ∧ t = f s := by
  unfold whenIdle at h
  split at h <;> simp_all

/-- A host operation asked for while busy is refused, and nothing else stops it. -/
theorem whenIdle_of_busy {s : State} (h : s.opstate ≠ .idle) (f : State → State) : whenIdle s f = .refused .busy := by
  unfold whenIdle
  split <;> simp_all

@[simp] theorem andThen_next (s : State) (f : State → State) : andThen (.next s) f = .next (f s) := rfl
@[simp] theorem andThen_fault (r : Fault) (f : State → State) : andThen (.fault r) f = .fault r := rfl
@[simp] theorem andThen_refused (r : Refusal) (f : State → State) : andThen (.refused r) f = .refused r := rfl
@[simp] theorem absorbRefusal_next (s t : State) : absorbRefusal s (.next t) = .next t := rfl
@[simp] theorem absorbRefusal_reservedOp (s : State) :
    absorbRefusal s (.refused .reservedOp) = .next s.recordReservedOp := rfl
@[simp] theorem absorbRefusal_reservedBits (s : State) :
    absorbRefusal s (.refused .reservedOperandBits) = .next s.recordReservedBits := rfl

/-- A next state that stands for an operation is the operation's, or the state before it with a refusal recorded. -/
theorem absorbRefusal_cases {s t : State} {o : Result} (h : absorbRefusal s o = .next t) :
    o = .next t ∨ (o = .refused .reservedOp ∧ t = s.recordReservedOp) ∨
      (o = .refused .reservedOperandBits ∧ t = s.recordReservedBits) := by
  cases o with
  | next u => exact .inl h
  | fault r => cases h
  | refused r =>
    simp only [absorbRefusal] at h
    split at h
    · next hr => cases h; exact .inr (.inl ⟨by rw [hr], rfl⟩)
    · split at h
      · next hr => cases h; exact .inr (.inr ⟨by rw [hr], rfl⟩)
      · cases h

/-! ### The fault mark -/

/-- `checkReady` marks `DdsNotInitialised` exactly when `DDS_READY = 0` (R204). -/
theorem checkReady_eq (s : State) :
    s.checkReady =
      { s with fault := { s.fault with ddsNotInitialised := s.fault.ddsNotInitialised || !s.ddsReady } } := by
  obtain ⟨_, _, _, _, _, _, _, _, _, _, _, _, _, _, _, _, _, _, _, _, _, r, _, _, _, _, _, _, _, _, _, _, _, _⟩ := s
  cases r <;> simp [State.checkReady, State.raiseFault]

theorem raiseFault_has (r q : Fault) (s : State) : (s.raiseFault r).fault.has q = (s.fault.has q || decide (q = r)) := by
  cases r <;> cases q <;> simp [State.raiseFault, FaultMark.has]

/-- What a read of `RES` does (R203, R234). -/
theorem readRes_cases (s : State) :
    (s.resValid = true ∧ s.readRes = { s with reads := s.reads ++ [s.res] }) ∨
      (s.resValid = false ∧ s.readRes = s.raiseFault .resultNotValid) := by
  unfold State.readRes
  cases h : s.resValid <;> simp

/-! ### Edges and the mask -/

/-- EDGE_SERVICE does nothing, or applies the one pending edge (R102). -/
theorem edgeService_cases (s : State) :
    (s.pend = true ∧ s.imask = false ∧ s.edgeService = { s.applyEdge with pend := false }) ∨
      ((s.pend = false ∨ s.imask = true) ∧ s.edgeService = s) := by
  unfold State.edgeService
  cases hp : s.pend <;> cases hm : s.imask <;> simp

/-- A write of the mask reaches nothing but `IMASK`, `ACC` and `PEND` (R102). -/
theorem setImask_eq (m : Bool) (s : State) :
    s.setImask m = { s with imask := m, acc := (s.setImask m).acc, pend := (s.setImask m).pend } := by
  unfold State.setImask State.edgeService
  split <;> rfl

/-- Setting the mask services nothing. -/
@[simp] theorem setImask_true (s : State) : s.setImask true = { s with imask := true } := by
  simp [State.setImask, State.edgeService]

/-- Opening the mask with an edge pending applies it with the level of `ENC_B` at that moment (R102). -/
theorem setImask_false_pending {s : State} (h : s.pend = true) :
    s.setImask false = { s.applyEdge with imask := false, pend := false } := by
  simp [State.setImask, State.edgeService, State.applyEdge, h]

theorem setImask_false_quiet {s : State} (h : s.pend = false) : s.setImask false = { s with imask := false } := by
  simp [State.setImask, State.edgeService, h]

/-- Opening the mask leaves no edge pending, and applies the pending one (R102). -/
@[simp] theorem setImask_false_pend (s : State) : (s.setImask false).pend = false := by
  cases h : s.pend
  · rw [setImask_false_quiet h, h]
  · rw [setImask_false_pending h]

theorem setImask_false_acc (s : State) :
    (s.setImask false).acc = if s.pend then s.applyEdge.acc else s.acc := by
  cases h : s.pend
  · rw [setImask_false_quiet h]; rfl
  · rw [setImask_false_pending h]; rfl

/-- An edge is applied or latched, by the mask (R101). -/
theorem takeEdge_cases (s : State) :
    (s.imask = false ∧ s.takeEdge = s.applyEdge) ∨ (s.imask = true ∧ s.takeEdge = { s with pend := true }) := by
  unfold State.takeEdge
  cases h : s.imask <;> simp

/-- An environment step sets the inputs and `ENC_A_LAST`, and otherwise only `ACC` or `PEND`, and those only at a
rising edge of `ENC_A` (R101). -/
theorem envStep_cases (a b n : Option Bool) (s : State) :
    (s.encALast = false ∧ a.getD s.encA = true ∧ s.imask = false ∧
        s.envStep a b n = (s.setInputs a b n).applyEdge.noteEncA) ∨
      (s.encALast = false ∧ a.getD s.encA = true ∧ s.imask = true ∧
        s.envStep a b n = { (s.setInputs a b n).noteEncA with pend := true }) ∨
      ((s.encALast = true ∨ a.getD s.encA = false) ∧ s.envStep a b n = (s.setInputs a b n).noteEncA) := by
  unfold State.envStep State.takeEdge
  cases hl : s.encALast <;> cases ha : a.getD s.encA <;> cases hm : s.imask <;>
    simp [State.setInputs, State.noteEncA, State.applyEdge, hl, ha, hm]

/-- An environment step reaches nothing but the inputs, `ENC_A_LAST`, `ACC` and `PEND`. -/
theorem envStep_eq (a b n : Option Bool) (s : State) :
    s.envStep a b n =
      { s with
        encA := a.getD s.encA, encB := b.getD s.encB, btnN := n.getD s.btnN, encALast := a.getD s.encA
        acc := (s.envStep a b n).acc, pend := (s.envStep a b n).pend } := by
  rcases envStep_cases a b n s with ⟨-, -, -, h⟩ | ⟨-, -, -, h⟩ | ⟨-, h⟩ <;> rw [h] <;> rfl

/-! ### The classifier -/

/-- One sample of the classifier (R121): release first, then the encoder, then the budget. -/
theorem evaluate_cases (s : State) :
    (s.btnN = true ∧ s.evaluate = { s with bstate := .bSettle }) ∨
      (s.btnN = false ∧ s.acc ≠ 0 ∧ s.evaluate = s.finishGesture .interruptedByEncoder) ∨
      (s.btnN = false ∧ s.acc = 0 ∧ s.rem = 0 ∧ s.evaluate = s.finishGesture .longPress) ∨
      (s.btnN = false ∧ s.acc = 0 ∧ s.rem ≠ 0 ∧ s.evaluate = s) := by
  unfold State.evaluate
  split
  · next hb => exact .inl ⟨hb, rfl⟩
  · next hb =>
    have hb : s.btnN = false := by simpa using hb
    split
    · next ha => exact .inr (.inl ⟨hb, ha, rfl⟩)
    · next ha =>
      split
      · next hr => exact .inr (.inr (.inl ⟨hb, by simpa using ha, hr, rfl⟩))
      · next hr => exact .inr (.inr (.inr ⟨hb, by simpa using ha, hr, rfl⟩))

/-- A step of the timer (R123, R124, R211). -/
theorem timerStep_cases (s : State) :
    (s.bstate = .bIdle ∧ s.timerStep = s) ∨ (s.bstate = .bWait ∧ s.timerStep = s.countDown.evaluate) ∨
      (s.bstate = .bSettle ∧ s.timerStep = s.finishGesture .shortPress) := by
  unfold State.timerStep
  cases h : s.bstate <;> simp

/-- The start step of BTN_CLASSIFY (R121). -/
theorem classify_cases (b : Half) (s : State) :
    (s.btnN = true ∧ s.classify b = s.beginOp.finishGesture .notPressed) ∨
      (s.btnN = false ∧ s.classify b = (s.beginOp.startWait b).evaluate) := by
  unfold State.classify
  cases h : s.btnN <;> simp

/-! ### The steps of a frame -/

/-- Step F0 of a frame (R161): everything it writes. -/
theorem startFrame_eq (t : Transfer) (k : Nat) (s : State) :
    s.startFrame t k =
      { s with
        imaskSaved := s.imask, imask := true, shift := frameAt s.cfg t k, frame := frameIndexAt t k s.frame
        fsyncN := false, rx := if s.fsyncN then 0 else s.rx, trace := s.trace ++ [(.fsyncN, false)]
        opstate := .sending t (.data k 15) } := by
  simp [State.startFrame, State.saveImask, State.loadFrame, State.drive, State.goto, State.logPin]

/-- The end of a frame on the pins and the mask (R161): everything but `ACC` and `PEND`, which EDGE_SERVICE gives. -/
theorem endFramePins_eq (s : State) :
    s.endFramePins =
      { s with
        fsyncN := true, trace := s.trace ++ [(.fsyncN, true)], imask := s.imaskSaved
        acc := s.endFramePins.acc, pend := s.endFramePins.pend } :=
  (setImask_eq s.imaskSaved (s.drive .fsyncN true)).trans (by simp [State.endFramePins])

/-- What follows a frame (R161, R162, R163, R166, R181). -/
theorem afterFrame_cases (t : Transfer) (k : Nat) (s : State) :
    (k < lastFrame t ∧ s.afterFrame t k = s.goto t (.gap (k + 1))) ∨
      (lastFrame t ≤ k ∧
        ((∃ f, t = .raw f ∧ s.afterFrame t k = s.finishSilent) ∨
          (∃ w, t = .write w ∧ s.afterFrame t k = s.finishSilent) ∨
          (t = .init ∧ s.afterFrame t k = { s with ddsReady := true, opstate := .idle }) ∨
          (∃ a w, t = .tune a w ∧ s.afterFrame t k = { s with opstate := .relaying a }))) := by
  unfold State.afterFrame
  split
  · next h => exact .inl ⟨h, rfl⟩
  · next h =>
    refine .inr ⟨by omega, ?_⟩
    cases t with
    | raw f => exact .inl ⟨f, rfl, rfl⟩
    | write w => exact .inr (.inl ⟨w, rfl, rfl⟩)
    | init => exact .inr (.inr (.inl ⟨rfl, rfl⟩))
    | tune a w => exact .inr (.inr (.inr ⟨a, w, rfl, rfl⟩))

/-- The final step of TUNE_SETFREQ (R181, R182): everything it writes. -/
theorem relayStep_eq (a : Word) (s : State) :
    s.relayStep a =
      { s with
        relay := relayLevel a, trace := s.trace ++ [(.relay, relayLevel a)], res := a, resValid := true
        opstate := .idle } := rfl

/-! ### The chip reader -/

/-- The instructions that are frames. -/
def isFrameInstr : Instr → Bool
  | .frameDefer8Low _ => true
  | .frameWrite16Low _ => true
  | .frameDefer8High _ => true
  | .frameWrite16High _ => true
  | .frameCmdSrc => true
  | .frameCmdCtrl => true
  | .encPoll => false
  | .btnClassify _ => false
  | .fmVfo _ _ => false
  | .fmTword _ => false
  | .serXfer16 _ => false
  | .ddsWriteTw _ => false
  | .ddsInit => false
  | .tuneSetfreq _ _ => false
  | .reservedOpZero => false
  | .reservedOpHigh _ => false

/-- A host word never decodes to a frame. -/
theorem decodeHost_not_frame {w : HostWord} {i : Instr} (h : decodeHost w = .ok i) : isFrameInstr i = false := by
  unfold decodeHost at h
  split at h <;> (try split at h) <;> simp_all <;> subst h <;> rfl

/-- A serial frame decodes to frames only. -/
theorem decodeFrame_is_frame {c : Config} {f : Half} {i : Instr} (h : decodeFrame c f = .ok i) :
    isFrameInstr i = true := by
  unfold decodeFrame at h
  repeat' split at h
  all_goals first | (cases h; done) | (injection h with h; subst h; rfl)

/-- A frame instruction reaches only the chip reader's registers, and always answers a next state. -/
theorem exec_frame {i : Instr} (h : isFrameInstr i = true) (s : State) :
    ∃ st fr d, exec i s = .next { s with stage := st, freq := fr, draws := d } := by
  cases i <;> first | (simp [isFrameInstr] at h; done) | exact ⟨_, _, _, rfl⟩

/-- The reader takes any frame, and reaches only its own registers. -/
theorem receiveFrame_next (s : State) :
    ∃ st fr d, receiveFrame s = .next { s with stage := st, freq := fr, draws := d } := by
  unfold receiveFrame
  split
  · next i h => exact exec_frame (decodeFrame_is_frame h) s
  · exact ⟨_, _, _, rfl⟩

/-- Step F_END always answers a next state (R161). -/
theorem endFrame_next (t : Transfer) (k : Nat) (s : State) :
    ∃ st fr d, endFrame t k s =
      .next (State.afterFrame t k { s.endFramePins with stage := st, freq := fr, draws := d }) := by
  obtain ⟨st, fr, d, h⟩ := receiveFrame_next s.endFramePins
  exact ⟨st, fr, d, by simp [endFrame, h]⟩

/-! ### The moves -/

/-- The block's own step always answers a next state. -/
theorem blockStep_next (s : State) : ∃ t, blockStep s = .next t := by
  unfold blockStep
  split
  · exact ⟨_, rfl⟩
  · exact ⟨_, rfl⟩
  · next t p _ =>
    cases p with
    | fEnd k => obtain ⟨st, fr, d, h⟩ := endFrame_next t k s; exact ⟨_, h⟩
    | _ => exact ⟨_, rfl⟩
  · exact ⟨_, rfl⟩

/-- The operation in progress can always go on. -/
theorem progress_next (s : State) : ∃ t, progress s = .next t := by
  unfold progress
  split
  · exact ⟨_, rfl⟩
  · exact ⟨_, rfl⟩
  · exact blockStep_next s
  · exact blockStep_next s

/-- An idle host interface takes any word: a reserved one is recorded, any other starts its operation. -/
theorem issue_cases (w : HostWord) (s : State) (h : s.opstate = .idle) :
    (∃ i t, decodeHost w = .ok i ∧ exec i (s.latch w) = .next t ∧ issue w s = .next t) ∨
      (∃ i, decodeHost w = .ok i ∧ exec i (s.latch w) = .refused .reservedOp ∧
        issue w s = .next s.recordReservedOp) ∨
      (∃ e, decodeHost w = .error e ∧ issue w s = .next s.recordReservedBits) := by
  have hl : (s.latch w).opstate = .idle := h
  unfold issue
  split
  · next e he => exact .inr (.inr ⟨e, he, rfl⟩)
  · next i hi =>
    have hf := decodeHost_not_frame hi
    cases i with
    | reservedOpZero => exact .inr (.inl ⟨_, hi, rfl, rfl⟩)
    | reservedOpHigh c => exact .inr (.inl ⟨_, hi, rfl, rfl⟩)
    | frameDefer8Low d => simp [isFrameInstr] at hf
    | frameWrite16Low d => simp [isFrameInstr] at hf
    | frameDefer8High d => simp [isFrameInstr] at hf
    | frameWrite16High d => simp [isFrameInstr] at hf
    | frameCmdSrc => simp [isFrameInstr] at hf
    | frameCmdCtrl => simp [isFrameInstr] at hf
    | encPoll => exact .inl ⟨_, _, hi, whenIdle_of_idle hl _, by simp [exec, execEncPoll, whenIdle_of_idle hl]⟩
    | btnClassify b =>
      exact .inl ⟨_, _, hi, whenIdle_of_idle hl _, by simp [exec, execBtnClassify, whenIdle_of_idle hl]⟩
    | fmVfo f u => exact .inl ⟨_, _, hi, whenIdle_of_idle hl _, by simp [exec, execFmVfo, whenIdle_of_idle hl]⟩
    | fmTword v => exact .inl ⟨_, _, hi, whenIdle_of_idle hl _, by simp [exec, execFmTword, whenIdle_of_idle hl]⟩
    | serXfer16 f => exact .inl ⟨_, _, hi, whenIdle_of_idle hl _, by simp [exec, execSerXfer16, whenIdle_of_idle hl]⟩
    | ddsWriteTw v =>
      exact .inl ⟨_, _, hi, whenIdle_of_idle hl _, by simp [exec, execDdsWriteTw, whenIdle_of_idle hl]⟩
    | ddsInit => exact .inl ⟨_, _, hi, whenIdle_of_idle hl _, by simp [exec, execDdsInit, whenIdle_of_idle hl]⟩
    | tuneSetfreq f u =>
      exact .inl ⟨_, _, hi, whenIdle_of_idle hl _, by simp [exec, execTuneSetfreq, whenIdle_of_idle hl]⟩

@[simp] theorem State.resetOf_refusals (c : Config) (a b n : Bool) (draw : Nat) (ms : List Move) :
    (State.resetOf c a b n draw ms).refusals = ⟨false, false, !configOk c⟩ := rfl
@[simp] theorem State.resetOf_cfg (c : Config) (a b n : Bool) (draw : Nat) (ms : List Move) :
    (State.resetOf c a b n draw ms).cfg = c := rfl

/-- A model that starts has a well-formed configuration, its reset state and an empty refusal mark. -/
theorem boot_cases {c : Config} {a b n : Bool} {draw : Nat} {ms : List Move} {s : State}
    (h : boot c a b n draw ms = .next s) :
    configOk c = true ∧ s = State.resetOf c a b n draw ms ∧ s.refusals = ⟨false, false, false⟩ := by
  unfold boot at h
  split at h
  · next hc => cases h; exact ⟨hc, rfl, by simp [hc]⟩
  · cases h

/-- What a step that answers a next state can have done: the one inversion lemma of the step. -/
theorem step_cases {s t : State} (h : step s = .next t) :
    configOk s.cfg = true ∧
      ((s.agenda = [] ∧ progress s = .next t) ∨
        (∃ w rest, s.agenda = .host w :: rest ∧ s.opstate = .idle ∧ issue w (s.withAgenda rest) = .next t) ∨
        (∃ w rest, s.agenda = .host w :: rest ∧ s.opstate ≠ .idle ∧ progress s = .next t) ∨
        (∃ rest, s.agenda = .readRes :: rest ∧ t = (s.withAgenda rest).readRes) ∨
        (∃ a b n rest, s.agenda = .env a b n :: rest ∧ t = (s.withAgenda rest).envStep a b n) ∨
        (∃ rest, s.agenda = .timer :: rest ∧ t = (s.withAgenda rest).timerStep) ∨
        (∃ rest, s.agenda = .block :: rest ∧ blockStep (s.withAgenda rest) = .next t) ∨
        (∃ rest, s.agenda = .reset :: rest ∧ t = (s.withAgenda rest).resetNow)) := by
  unfold step guarded at h
  split at h
  · next hc =>
    refine ⟨hc, ?_⟩
    unfold nextMove at h
    split at h
    · next ha => exact .inl ⟨ha, h⟩
    · next m rest ha =>
      right
      cases m with
      | host w =>
        simp only [takeMove] at h
        split at h
        · next ho => exact .inl ⟨w, rest, ha, ho, h⟩
        all_goals next ho => exact .inr (.inl ⟨w, rest, ha, by simp [ho], h⟩)
      | readRes => simp only [takeMove, Host.Outcome.next.injEq] at h; exact .inr (.inr (.inl ⟨rest, ha, h.symm⟩))
      | env a b n =>
        simp only [takeMove, Host.Outcome.next.injEq] at h
        exact .inr (.inr (.inr (.inl ⟨a, b, n, rest, ha, h.symm⟩)))
      | timer =>
        simp only [takeMove, Host.Outcome.next.injEq] at h
        exact .inr (.inr (.inr (.inr (.inl ⟨rest, ha, h.symm⟩))))
      | block => exact .inr (.inr (.inr (.inr (.inr (.inl ⟨rest, ha, h⟩)))))
      | reset =>
        simp only [takeMove, Host.Outcome.next.injEq] at h
        exact .inr (.inr (.inr (.inr (.inr (.inr ⟨rest, ha, h.symm⟩)))))
  · cases h

/-! ### Runs -/

@[simp] theorem steps_zero (s : State) : steps 0 s = .next s := rfl

theorem steps_succ_of_next {s s' : State} (h : step s = .next s') (n : Nat) : steps (n + 1) s = steps n s' := by
  simp [steps, h]

/-- Runs compose. -/
theorem steps_add {m : Nat} : ∀ {n : Nat} {s s' : State}, steps n s = .next s' → steps (n + m) s = steps m s'
  | 0, s, s', h => by simp_all
  | n + 1, s, s', h => by
    rw [Nat.succ_add]
    cases hs : step s with
    | next s1 =>
      simp only [steps, hs] at h ⊢
      exact steps_add h
    | fault r => simp [steps, hs] at h
    | refused r => simp [steps, hs] at h

end Sys2Proof.Machine
end

