-- ==== Sys2Proof/Laws/PerInstr.lean ====
section
/-! SUPPORT. The family `EncodedFormat`: each instruction's word is of the format spec/opcode_table.json gives its row
("host_op" or "serial_frame16"), and a host operation's word carries the row's `match` bits in `OP[3:0]`. -/

namespace Sys2Proof.Laws

/-- The operation code of a host operation's row, none for a frame's row (30_encoding.md R61). -/
def tableCode : Instr → Option (BitVec 4)
  | .encPoll => some 0x1
  | .btnClassify _ => some 0x2
  | .fmVfo _ _ => some 0x3
  | .fmTword _ => some 0x4
  | .serXfer16 _ => some 0x5
  | .ddsWriteTw _ => some 0x6
  | .ddsInit => some 0x7
  | .tuneSetfreq _ _ => some 0x8
  | .reservedOpZero => some 0x0
  | .reservedOpHigh code => some code
  | .frameDefer8Low _ => none
  | .frameWrite16Low _ => none
  | .frameDefer8High _ => none
  | .frameWrite16High _ => none
  | .frameCmdSrc => none
  | .frameCmdCtrl => none

/-- The word is a host operation with the row's code, or a frame. -/
def EncodedFormat.Statement (i : Instr) : Prop :=
  ∀ c : Config,
    match tableCode i with
    | some code => ∃ opa opb, encode c i = .host ⟨code, opa, opb⟩
    | none => ∃ f, encode c i = .frame f

theorem EncodedFormat.encPoll : EncodedFormat.Statement .encPoll := fun _ => ⟨_, _, rfl⟩
theorem EncodedFormat.btnClassify (b : Half) : EncodedFormat.Statement (.btnClassify b) := fun _ => ⟨_, _, rfl⟩
theorem EncodedFormat.fmVfo (f : Word) (u : Bool) : EncodedFormat.Statement (.fmVfo f u) := fun _ => ⟨_, _, rfl⟩
theorem EncodedFormat.fmTword (v : Word) : EncodedFormat.Statement (.fmTword v) := fun _ => ⟨_, _, rfl⟩
theorem EncodedFormat.serXfer16 (f : Half) : EncodedFormat.Statement (.serXfer16 f) := fun _ => ⟨_, _, rfl⟩
theorem EncodedFormat.ddsWriteTw (w : Word) : EncodedFormat.Statement (.ddsWriteTw w) := fun _ => ⟨_, _, rfl⟩
theorem EncodedFormat.ddsInit : EncodedFormat.Statement .ddsInit := fun _ => ⟨_, _, rfl⟩
theorem EncodedFormat.tuneSetfreq (f : Word) (u : Bool) : EncodedFormat.Statement (.tuneSetfreq f u) :=
  fun _ => ⟨_, _, rfl⟩
theorem EncodedFormat.reservedOpZero : EncodedFormat.Statement .reservedOpZero := fun _ => ⟨_, _, rfl⟩
theorem EncodedFormat.reservedOpHigh (c : BitVec 4) : EncodedFormat.Statement (.reservedOpHigh c) :=
  fun _ => ⟨_, _, rfl⟩
theorem EncodedFormat.frameDefer8Low (d : Byte) : EncodedFormat.Statement (.frameDefer8Low d) := fun _ => ⟨_, rfl⟩
theorem EncodedFormat.frameWrite16Low (d : Byte) : EncodedFormat.Statement (.frameWrite16Low d) := fun _ => ⟨_, rfl⟩
theorem EncodedFormat.frameDefer8High (d : Byte) : EncodedFormat.Statement (.frameDefer8High d) := fun _ => ⟨_, rfl⟩
theorem EncodedFormat.frameWrite16High (d : Byte) : EncodedFormat.Statement (.frameWrite16High d) :=
  fun _ => ⟨_, rfl⟩
theorem EncodedFormat.frameCmdSrc : EncodedFormat.Statement .frameCmdSrc := fun _ => ⟨_, rfl⟩
theorem EncodedFormat.frameCmdCtrl : EncodedFormat.Statement .frameCmdCtrl := fun _ => ⟨_, rfl⟩

end Sys2Proof.Laws
end

