-- ==== Sys2Proof/Machine/Assembly.lean ====
section
/-! DEFINITION. The program syntax of spec/30_encoding.md R72: its items, their text, and the moves they stand for. -/

namespace Sys2Proof.Machine

/-- One item of a program (R72): a host operation, as the word it assembles to, or an environment step. -/
inductive Item where
  | op (w : HostWord)
  /-- `@B <0|1>`. -/
  | atB (level : Bool)
  /-- `@EDGE`. -/
  | atEdge
  /-- `@BTN down` is `true`, `@BTN up` is `false`. -/
  | atBtn (down : Bool)
  /-- `@TICK`: one classifier tick (R72; outside `B_WAIT`: log entry 27). -/
  | atTick
  deriving DecidableEq, Repr

/-- The moves of an item (R72): `@EDGE` takes `ENC_A` to 0 and then to 1, `@BTN down` sets `BTN_N` to 0. `@TICK` is one
move of the timer: TICK while `BSTATE = B_WAIT`, as R72 says. R72 has no item for SETTLE_DONE and does not say what
`@TICK` does at another `BSTATE`; that the move is then SETTLE_DONE in `B_SETTLE` and no step in `B_IDLE` is the model's
choice (log entry 27, DESIGN CHOICE). -/
def Item.moves : Item → List Move
  | .op w => [.host w]
  | .atB level => [.env none (some level) none]
  | .atEdge => [.env (some false) none none, .env (some true) none none]
  | .atBtn down => [.env none none (some !down)]
  | .atTick => [.timer]

/-- The moves of a program, in order (R72). An operation's later steps are no items; where they run among the items that
follow it is the model's choice (log entry 29, DESIGN CHOICE). -/
def assemble (items : List Item) : List Move := items.flatMap Item.moves

/-- A character list that is not empty, as one token. -/
def tokenOf (cs : List Char) : List (List Char) := if cs = [] then [] else [cs]

/-- The tokens of a line: spaces separate them, a comma is a token of its own. -/
def tokenize : (line : List Char) → (current : List Char) → List (List Char)
  | [], current => tokenOf current
  | c :: cs, current =>
    if c = ' ' then tokenOf current ++ tokenize cs []
    else if c = ',' then tokenOf current ++ [[',']] ++ tokenize cs []
    else tokenize cs (current ++ [c])

/-- The value of a hexadecimal digit. -/
def digitValue (c : Char) : Option Nat :=
  if '0'.toNat ≤ c.toNat ∧ c.toNat ≤ '9'.toNat then some (c.toNat - '0'.toNat)
  else if 'a'.toNat ≤ c.toNat ∧ c.toNat ≤ 'f'.toNat then some (c.toNat - 'a'.toNat + 10)
  else if 'A'.toNat ≤ c.toNat ∧ c.toNat ≤ 'F'.toNat then some (c.toNat - 'A'.toNat + 10)
  else none

/-- Digits in a base after the value read so far. -/
def digitsFrom (base : Nat) : (value : Nat) → List Char → Option Nat
  | value, [] => some value
  | value, c :: cs =>
    match digitValue c with
    | some d => if d < base then digitsFrom base (value * base + d) cs else none
    | none => none

/-- A natural: decimal unless prefixed `0x` (R72). -/
def readNat : List Char → Option Nat
  | [] => none
  | '0' :: 'x' :: [] => none
  | '0' :: 'x' :: cs => digitsFrom 16 0 cs
  | cs => digitsFrom 10 0 cs

/-- An integer: a natural, or a minus sign and a natural (95_test_vectors.md S12; log entry 26). -/
def readInt : List Char → Option Int
  | '-' :: cs => (readNat cs).map fun n => -(n : Int)
  | cs => (readNat cs).map fun n => (n : Int)

/-- A 32-bit operand: an `s32` or a `u32` (R62; log entry 26). -/
def readWord (cs : List Char) : Option Word :=
  match readInt cs with
  | some x => if -(2 ^ 31) ≤ x ∧ x < 2 ^ 32 then some (BitVec.ofInt 32 x) else none
  | none => none

/-- A 16-bit operand (R62; log entry 26). -/
def readHalf (cs : List Char) : Option Half :=
  match readNat cs with
  | some n => if n < 2 ^ 16 then some (BitVec.ofNat 16 n) else none
  | none => none

/-- `USB` assembles to `OPB = 1` and `LSB` to `OPB = 0` (R72). -/
def readSideband (cs : List Char) : Option Half :=
  if cs = "USB".toList then some 1 else if cs = "LSB".toList then some 0 else none

/-- An operation or step of one token. The 0 in `OPA` and `OPB`, which ENC_POLL and DDS_INIT do not use, is the model's
choice (log entry 28, DESIGN CHOICE). -/
def itemOfOne (name : List Char) : Option Item :=
  if name = "ENC_POLL".toList then some (.op ⟨0x1, 0, 0⟩)
  else if name = "DDS_INIT".toList then some (.op ⟨0x7, 0, 0⟩)
  else if name = "@EDGE".toList then some .atEdge
  else if name = "@TICK".toList then some .atTick
  else none

/-- An operation or step with one operand. The 0 in the register that the operation does not use, `OPA` of BTN_CLASSIFY
and `OPB` of FM_TWORD, SER_XFER16 and DDS_WRITE_TW, is the model's choice (log entry 28, DESIGN CHOICE). -/
def itemOfTwo (name arg : List Char) : Option Item :=
  if name = "BTN_CLASSIFY".toList then (readHalf arg).map fun b => .op ⟨0x2, 0, b⟩
  else if name = "FM_TWORD".toList then (readWord arg).map fun v => .op ⟨0x4, v, 0⟩
  else if name = "SER_XFER16".toList then (readWord arg).map fun f => .op ⟨0x5, f, 0⟩
  else if name = "DDS_WRITE_TW".toList then (readWord arg).map fun w => .op ⟨0x6, w, 0⟩
  else if name = "@B".toList then
    if arg = ['0'] then some (.atB false) else if arg = ['1'] then some (.atB true) else none
  else if name = "@BTN".toList then
    if arg = "down".toList then some (.atBtn true) else if arg = "up".toList then some (.atBtn false) else none
  else none

/-- An operation with a frequency and a sideband. -/
def itemOfFour (name arg comma side : List Char) : Option Item :=
  match readWord arg, readSideband side with
  | some f, some opb =>
    if comma ≠ [','] then none
    else if name = "FM_VFO".toList then some (.op ⟨0x3, f, opb⟩)
    else if name = "TUNE_SETFREQ".toList then some (.op ⟨0x8, f, opb⟩)
    else none
  | _, _ => none

/-- The item of a line (R72); no item where the line is none of R72's forms. -/
def parseLine (line : List Char) : Option Item :=
  match tokenize line [] with
  | [name] => itemOfOne name
  | [name, arg] => itemOfTwo name arg
  | [name, arg, comma, side] => itemOfFour name arg comma side
  | _ => none

end Sys2Proof.Machine
end

