-- ==== Sys2Proof/Tests/Slice0.lean ====
section
/-! SUPPORT. Tests from the spec's tables and vectors (spec/30_encoding.md, spec/95_test_vectors.md), and a witness for
the hypotheses of each statement. -/

namespace Sys2Proof.Tests

open Sys2Proof Sys2Proof.Machine

/-! ### Helpers -/

/-- A check on the next state; a stop fails it. -/
def nextIs (o : Result) (p : State → Bool) : Bool :=
  match o with
  | .next s => p s
  | .fault _ => false
  | .refused _ => false

/-- A check on the reason of a refusal. -/
def refusedIs (o : Result) (r : Refusal) : Bool :=
  match o with
  | .next _ => false
  | .fault _ => false
  | .refused q => decide (q = r)

/-- After DDS_INIT, idle. -/
def ready : State := { State.reset with ddsReady := true }

/-- `s` with these moves to come. -/
def within (ms : List Move) (s : State) : State := { s with agenda := ms }

/-- A frame of 0x3078 whose bit `BITIDX = 0` is at phase `p`, the mask held. -/
def inside (p : Phase) (clock : Bool) : State :=
  { ready with
    opstate := .sending (.raw 0x3078) p, imask := true, fsyncN := false, sclk := clock, shift := 0x3078
    rx := 0x3078 }

/-- A classification waits with three ticks left and the button down. -/
def waiting : State := { ready with opstate := .classifying, bstate := .bWait, rem := 3, btnN := false }

/-! ### Well-formed terms -/

theorem test_wf_refuses_code_8 : (Instr.reservedOpHigh 0x8).wf = false := by decide
theorem test_wf_refuses_code_0 : (Instr.reservedOpHigh 0x0).wf = false := by decide
theorem test_wf_takes_codes_9_to_F : ([9, 10, 11, 12, 13, 14, 15].all fun c => (Instr.reservedOpHigh c).wf) = true := by
  decide

/-! ### Decoding, words written out from 30_encoding.md R61, R62, R64, R65 -/

theorem test_decode_encPoll : decodeHost ⟨0b0001, 0xFFFFFFFF, 0xFFFF⟩ = .ok .encPoll := by decide
theorem test_decode_btnClassify : decodeHost ⟨0b0010, 0, 0x0032⟩ = .ok (.btnClassify 50) := by decide
theorem test_decode_fmVfo : decodeHost ⟨0b0011, 0x00D9B278, 0x0001⟩ = .ok (.fmVfo 14267000 true) := by decide
theorem test_decode_fmVfo_reserved : decodeHost ⟨0b0011, 0, 0x0002⟩ = .error .reservedOperandBits := by decide
theorem test_decode_fmTword : decodeHost ⟨0b0100, 0xFFFFFFFF, 0⟩ = .ok (.fmTword (-1)) := by decide
theorem test_decode_serXfer16 : decodeHost ⟨0b0101, 0x0000FFFF, 0⟩ = .ok (.serXfer16 0xFFFF) := by decide
/-- Vector X4. -/
theorem test_decode_serXfer16_reserved : decodeHost ⟨0b0101, 0x00010000, 0⟩ = .error .reservedOperandBits := by decide
theorem test_decode_ddsWriteTw : decodeHost ⟨0b0110, 0x12345678, 0⟩ = .ok (.ddsWriteTw 0x12345678) := by decide
theorem test_decode_ddsInit : decodeHost ⟨0b0111, 1, 1⟩ = .ok .ddsInit := by decide
/-- Program P1. -/
theorem test_decode_tuneSetfreq : decodeHost ⟨0b1000, 0x00387138, 0⟩ = .ok (.tuneSetfreq 3699000 false) := by decide
/-- End of section 2.5. -/
theorem test_decode_tuneSetfreq_reserved : decodeHost ⟨0b1000, 0, 0x8000⟩ = .error .reservedOperandBits := by decide
/-- Vector F2. -/
theorem test_decode_reserved : decodeHost ⟨0b0000, 0, 0⟩ = .ok .reservedOpZero
    ∧ decodeHost ⟨0b1011, 0, 0⟩ = .ok (.reservedOpHigh 0xB) := by decide
/-- Vector X5. -/
theorem test_decode_write_frames : decodeFrame Config.pEx 0b0011000001111000 = .ok (.frameDefer8Low 0x78)
    ∧ decodeFrame Config.pEx 0b0010000101010110 = .ok (.frameWrite16Low 0x56)
    ∧ decodeFrame Config.pEx 0b0011001000110100 = .ok (.frameDefer8High 0x34)
    ∧ decodeFrame Config.pEx 0b0010001100010010 = .ok (.frameWrite16High 0x12) := by decide
/-- Vector X9. -/
theorem test_decode_command_frames : decodeFrame Config.pEx 0b1111100000000000 = .ok .frameCmdSrc
    ∧ decodeFrame Config.pEx 0b1100000000000000 = .ok .frameCmdCtrl
    ∧ decodeFrame Config.pEx 0b1111100000000001 = .error .otherFrame := by decide
theorem test_encode_tuneSetfreq :
    encode Config.pEx (.tuneSetfreq 14267000 true) = .host ⟨8, 0x00D9B278, 1⟩ := by decide
theorem test_table_words : decodeTableWord 8 0x8 = some (.tuneSetfreq 0 false)
    ∧ decodeTableWord 8 0x9 = some (.reservedOpHigh 9) ∧ decodeTableWord 16 0x2312 = some (.frameWrite16High 0x12) := by
  decide

/-! ### The frequency model, section 2.1 -/

theorem test_ratio : ratioK Config.pEx = 86 ∧ ratioK { Config.pEx with refClkHz := 3 } = 1431655765
    ∧ ratioK { Config.pEx with refClkHz := 2 } = 2 ^ 31 ∧ ratioK { Config.pEx with refClkHz := 2 ^ 32 } = 1 := by
  decide
theorem test_coef : coef Config.pEx 7 = 0x33428F00 ∧ coef Config.pEx 1 = 0x35C := by decide
theorem test_clamp : clamp (-5) = 100000 ∧ clamp 99999 = 100000 ∧ clamp 14267000 = 14267000
    ∧ clamp 25000000 = 20000000 := by decide
theorem test_fmVfo : nextIs (exec (.fmVfo 3699000 true) ready) (fun t => t.res == BitVec.ofInt 32 (-5301000)) = true := by
  decide
theorem test_fmTword_negative : nextIs (exec (.fmTword (BitVec.ofInt 32 (-5301000))) ready)
    (fun t => t.res == 0xE4D3BB50) = true := by decide
theorem test_fmTword_ninth_digit_dropped : nextIs (exec (.fmTword 123456789) ready)
    (fun t => t.res == 0x783D4F0E && t.resValid) = true := by decide

/-! ### The encoder, section 2.2 -/

/-- Vectors A3 and A4. -/
theorem test_edge_wraps :
    nextIs (step (within [.env (some true) none none] { ready with acc := 32767 })) (fun t => t.acc == 0x8000) = true
      ∧ nextIs (step (within [.env (some true) (some true) none] { ready with acc := 0x8000 }))
        (fun t => t.acc == 32767) = true := by decide
/-- The example of R103. -/
theorem test_encPoll : nextIs (exec .encPoll { ready with acc := BitVec.ofInt 16 (-3) })
    (fun t => t.res == 0xFFFFFFFD && t.acc == 0 && t.resValid) = true := by decide
/-- Vectors A8 and A10: an edge in a frame waits, and the level of `ENC_B` at the frame's end decides. -/
theorem test_pending_edge :
    nextIs (step (within [.env (some true) none none] (inside (.fEnd 0) true))) (fun t => t.pend && t.acc == 0) = true
      ∧ nextIs (step (within [.block] { inside (.fEnd 0) true with pend := true, encB := true }))
        (fun t => !t.pend && !t.imask && t.acc == 0xFFFF) = true := by decide

/-! ### The classifier, section 2.3 -/

/-- Vectors B1 and B7. -/
theorem test_btnClassify_at_once :
    nextIs (exec (.btnClassify 50) ready) (fun t => t.res == 0 && t.resValid && t.rem == 0) = true
      ∧ nextIs (exec (.btnClassify 50) { ready with btnN := false, acc := 5 })
        (fun t => t.res == 3 && t.rem == 50 && t.acc == 5) = true := by decide
/-- Vector B9: released at the sample where the budget ends. -/
theorem test_release_comes_first : nextIs (step (within [.timer] { waiting with rem := 1, btnN := true, acc := 7 }))
    (fun t => decide (t.bstate = .bSettle) && t.rem == 0 && !t.resValid) = true := by decide

/-! ### Frames, sections 2.4 and 2.5 -/

/-- The example of R162: the first step asserts frame-start. -/
theorem test_serXfer16_starts : nextIs (exec (.serXfer16 0x8001) ready)
    (fun t => t.trace == [(.fsyncN, false)] && t.imask && t.shift == 0x8001) = true := by decide
/-- Vector X2: bit 13 of 0x3078 is 1. -/
theorem test_data_bit : nextIs (step (within [] (inside (.data 0 13) true)))
    (fun t => t.sdata && t.bitidx == 13) = true := by decide
/-- Vector F1: the fault is marked and the frame starts; the first frame of S9 is 0x30D0. -/
theorem test_tuneSetfreq_before_init : nextIs (exec (.tuneSetfreq 14267000 true) State.reset)
    (fun t => t.fault.ddsNotInitialised && t.shift == 0x30D0 && !t.fsyncN) = true := by decide
/-- Vector S11: the applied frequency is clamped and the word is 0x3862D080. -/
theorem test_tuneSetfreq_clamps : nextIs (exec (.tuneSetfreq 25000000 true) ready)
    (fun t => decide (t.opstate = .sending (.tune 20000000 0x3862D080) (.data 0 15)) && faultFree t) = true := by decide
theorem test_ddsWriteTw_starts : nextIs (exec (.ddsWriteTw 0x12345678) ready)
    (fun t => t.shift == 0x3078 && t.frame == 0 && faultFree t) = true := by decide
theorem test_ddsInit_starts : nextIs (exec .ddsInit State.reset)
    (fun t => t.shift == 0xF800 && faultFree t) = true := by decide
/-- R182: 10 MHz exactly selects the low band. -/
theorem test_relay : relayLevel 10000000 = false ∧ relayLevel 10000001 = true ∧ relayLevel 9999999 = false := by decide
/-- Vector X10, frame 1. -/
theorem test_commit_low : nextIs (exec (.frameWrite16Low 0x56) { ready with stage := 0x78, freq := 0xAAAABBBB })
    (fun t => t.freq == 0xAAAA5678) = true := by decide
/-- Vector X10, frame 3. -/
theorem test_commit_high : nextIs (exec (.frameWrite16High 0x12) { ready with stage := 0x34, freq := 0xAAAA5678 })
    (fun t => t.freq == 0x12345678) = true := by decide
theorem test_frame_end_stages : nextIs (step (within [.block] (inside (.fEnd 0) true)))
    (fun t => t.stage == 0x78 && decide (t.opstate = .idle)) = true := by decide

/-! ### Faults and refusals, section 2.6 -/

/-- Vector F2. -/
theorem test_reserved_op : nextIs (step (within [.host ⟨0xB, 5, 5⟩] ready))
    (fun t => t.refusals.reservedOp && t.opa == 0 && !t.refusals.reservedOperandBits) = true := by decide
/-- Vector F3. -/
theorem test_read_invalid : nextIs (step (within [.readRes] State.reset))
    (fun t => t.fault.resultNotValid && t.reads == []) = true := by decide
/-- Vector F4. -/
theorem test_bad_configuration :
    refusedIs (step { ready with cfg := { Config.pEx with ifHz := 80000000 } }) .badConfiguration = true
      ∧ refusedIs (step { ready with cfg := { Config.pEx with refClkHz := 1 } }) .badConfiguration = true := by
  decide

/-- R205: no run starts under such a configuration, its reset state records the refusal and is no successful end (R234);
under the example instance the model starts. -/
theorem test_bad_configuration_before_reset :
    let bad : Config := { Config.pEx with ifHz := 80000000 }
    refusedIs (boot bad false false true 0 []) .badConfiguration = true
      ∧ (State.resetOf bad false false true 0 []).refusals = ⟨false, false, true⟩
      ∧ successfulEnd (State.resetOf bad false false true 0 []) = false
      ∧ nextIs (boot Config.pEx false false true 0 []) successfulEnd = true := by decide

/-- Every row of the table runs as the first instruction after reset (a reserved code is recorded as refused). -/
theorem test_rows_run_after_reset :
    ([(8, 0x1), (8, 0x2), (8, 0x3), (8, 0x4), (8, 0x5), (8, 0x6), (8, 0x7), (8, 0x8), (8, 0x0), (8, 0x9), (16, 0x3000),
      (16, 0x2100), (16, 0x3200), (16, 0x2300), (16, 0xF800), (16, 0xC000)].all fun r =>
        nextIs (step (State.reset.withFetchWord r.1 r.2)) fun _ => true) = true := by decide

/-- R72: `@EDGE` and `LSB`. -/
theorem test_assemble : assemble [.atEdge, .op ⟨3, 5, 0⟩]
    = [.env (some false) none none, .env (some true) none none, .host ⟨3, 5, 0⟩] := by decide

/-- The lines of programs P1, P3 and P4 with their encodings, and S12's negative frequency. -/
theorem test_parse : parseLine "TUNE_SETFREQ 14267000, USB".toList = some (.op ⟨0x8, 0x00D9B278, 0x0001⟩)
    ∧ parseLine "BTN_CLASSIFY 50".toList = some (.op ⟨0x2, 0, 0x0032⟩)
    ∧ parseLine "DDS_WRITE_TW 0x12345678".toList = some (.op ⟨0x6, 0x12345678, 0⟩)
    ∧ parseLine "TUNE_SETFREQ -5, LSB".toList = some (.op ⟨0x8, 0xFFFFFFFB, 0⟩)
    ∧ parseLine "@BTN down".toList = some (.atBtn true)
    ∧ parseLine "FM_VFO 5 USB".toList = none := by decide

/-! ### Witnesses: a concrete state and operands that meet all hypotheses of a statement together -/

theorem ready_consistent : Consistent ready where
  mask := rfl
  pending h := nomatch h
  saved h := nomatch h
  frameStart := rfl
  clock := rfl
  classifier := by simp [ready, State.reset, State.resetOf]
  budget h := nomatch h
  position _ _ h := nomatch h
  shifting _ _ h := nomatch h
  noResult h := absurd rfl h
  edge := rfl
  configuration := by decide

/-- Changing the moves to come, `ACC` or `ENC_B` of `ready` keeps it consistent. -/
theorem ready_like (ms : List Move) (acc : Half) (b : Bool) :
    Consistent { ready with agenda := ms, acc := acc, encB := b } :=
  { ready_consistent with }

theorem inside_consistent : Consistent (inside (.fEnd 0) true) where
  mask := rfl
  pending _ := rfl
  saved _ := rfl
  frameStart := rfl
  clock := rfl
  classifier := by simp [inside, ready, State.reset, State.resetOf]
  budget h := nomatch h
  position t p h := by cases h; decide
  shifting t p h _ := by cases h; rfl
  noResult _ := rfl
  edge := rfl
  configuration := by decide

theorem witness_DecodeOfEncodeIsIdentity :
    framesApart Config.pEx = true ∧ (Instr.reservedOpHigh 9).wf = true ∧ (Instr.serXfer16 0xFFFF).wf = true := by
  decide

theorem witness_DecodedFrameEncodesBack : decodeFrame Config.pEx 0xC000 = .ok .frameCmdCtrl := by decide

theorem witness_HostDecodingFollowsTheTable :
    (1 : Half).toNat < 2 ∧ (0xFFFF : Word).toNat < 2 ^ 16 ∧ 9 ≤ (9 : BitVec 4).toNat := by decide

theorem witness_HostDecodingRefusesOnlyReservedBits :
    decodeHost ⟨0x3, 0, 2⟩ = .error .reservedOperandBits ∧ decodeHost ⟨0x8, 0, 2⟩ = .error .reservedOperandBits
      ∧ decodeHost ⟨0x5, 0x10000, 0⟩ = .error .reservedOperandBits
      ∧ decodeHost ⟨0x3, 0, 1⟩ ≠ .error .reservedOperandBits := by decide

theorem witness_StepRunsTheDecodedOperation :
    configOk ready.cfg = true ∧ ready.opstate = .idle
      ∧ (within [.host ⟨1, 0, 0⟩] ready).agenda = .host ⟨1, 0, 0⟩ :: [] ∧ decodeHost ⟨1, 0, 0⟩ = .ok .encPoll
      ∧ Instr.encPoll ≠ .reservedOpZero ∧ (∀ code, Instr.encPoll ≠ .reservedOpHigh code)
      ∧ decodeHost ⟨0, 0, 0⟩ = .ok .reservedOpZero ∧ decodeHost ⟨9, 0, 0⟩ = .ok (.reservedOpHigh 9) := by
  refine ⟨by decide, rfl, rfl, rfl, by decide, ?_, rfl, rfl⟩
  intro code; simp

theorem witness_FrameEndRunsTheReceivedFrame :
    configOk (inside (.fEnd 0) true).cfg = true
      ∧ (within [.block] (inside (.fEnd 0) true)).opstate = .sending (.raw 0x3078) (.fEnd 0)
      ∧ decodeFrame (inside (.fEnd 0) true).cfg (inside (.fEnd 0) true).rx = .ok (.frameDefer8Low 0x78)
      ∧ decodeFrame Config.pEx ({ inside (.fEnd 0) true with rx := 0x8001 } : State).rx = .error .otherFrame := by
  decide

theorem witness_ReservedOperandBitsAreRefused :
    configOk ready.cfg = true ∧ ready.opstate = .idle ∧ 2 ≤ (0x0002 : Half).toNat
      ∧ 2 ^ 16 ≤ (0x00010000 : Word).toNat := by decide

theorem witness_BusyHostIsHeld :
    configOk waiting.cfg = true ∧ waiting.opstate ≠ .idle
      ∧ (within [.host ⟨1, 0, 0⟩] waiting).agenda = .host ⟨1, 0, 0⟩ :: [] := by decide

theorem witness_BusyMeaningsAreRefused :
    waiting.opstate ≠ .idle ∧ (∃ c w, encode c .encPoll = .host w) ∧ Instr.encPoll ≠ .reservedOpZero
      ∧ ∀ code, Instr.encPoll ≠ .reservedOpHigh code :=
  ⟨by decide, ⟨Config.pEx, _, rfl⟩, by decide, by intro code; simp⟩

/-- For EncPollResult, FmVfoResult, FmTwordResult, SerXferStart, DdsWriteStart, DdsInitStart. -/
theorem witness_idle : ready.opstate = .idle := rfl

theorem witness_BtnClassifyStart :
    ready.opstate = .idle ∧ ready.btnN = true
      ∧ ({ ready with btnN := false, acc := 1 } : State).acc ≠ 0
      ∧ ({ ready with btnN := false } : State).acc = 0 ∧ (0 : Half) = 0 ∧ (1 : Half) ≠ 0 := by decide

theorem witness_TuneSetfreqStart :
    ready.opstate = .idle
      ∧ (20000000 : Word) = BitVec.ofInt 32 (max 100000 (min 20000000 (25000000 : Word).toInt))
      ∧ (11000000 : Word) = BitVec.ofInt 32 ((20000000 : Word).toInt - ready.cfg.ifHz)
      ∧ (0x3862D080 : Word)
        = BitVec.ofInt 32 ((ratioK ready.cfg : Int) * (11000000 : Word).toInt.tmod (10 ^ 8)) := by decide

/-- The moves of the bus laws' witnesses: an edge of the encoder inside the first frame, then `n` block moves. -/
def busMoves (n : Nat) : List Move := .env (some true) none none :: List.replicate n .block

/-- `ready` with an operation, `n` block moves with an edge before them, and one block move more. -/
def busState (w : HostWord) (n : Nat) : State := within (.host w :: (busMoves n ++ .block :: [])) ready

theorem busMoves_pass (n : Nat) : ∀ m ∈ busMoves n, m.passes = true := by
  intro m hm
  simp only [busMoves, List.mem_cons, List.mem_replicate] at hm
  rcases hm with rfl | ⟨-, rfl⟩ <;> rfl

theorem busMoves_count (n : Nat) : (busMoves n).count .block = n := by
  simp [busMoves]

/-- The premises that the bus laws share hold of `busState`. -/
theorem bus_premises (w : HostWord) (n : Nat) :
    configOk (busState w n).cfg = true ∧ framesApart (busState w n).cfg = true
      ∧ (busState w n).cfg.tag0 ≠ (busState w n).cfg.tag1 ∧ (busState w n).cfg.tag2 ≠ (busState w n).cfg.tag3
      ∧ Consistent (busState w n) ∧ (busState w n).opstate = .idle
      ∧ (∀ m ∈ busMoves n, m.passes = true) ∧ (busMoves n).count .block = n
      ∧ (busState w n).agenda = .host w :: (busMoves n ++ .block :: []) :=
  ⟨show configOk Config.pEx = true by decide, show framesApart Config.pEx = true by decide,
    show (0x30 : Byte) ≠ 0x21 by decide, show (0x32 : Byte) ≠ 0x23 by decide, ready_like _ _ _, rfl,
    busMoves_pass n, busMoves_count n, rfl⟩

theorem witness_RawFrameUnderInterleaving :
    configOk (busState ⟨0x5, 0x3078, 0⟩ 48).cfg = true ∧ Consistent (busState ⟨0x5, 0x3078, 0⟩ 48)
      ∧ (busState ⟨0x5, 0x3078, 0⟩ 48).opstate = .idle ∧ (∀ m ∈ busMoves 48, m.passes = true)
      ∧ (busMoves 48).count .block = 48
      ∧ (busState ⟨0x5, 0x3078, 0⟩ 48).agenda
        = .host ⟨0x5, (0x3078 : Half).zeroExtend 32, 0⟩ :: (busMoves 48 ++ .block :: []) :=
  have h := bus_premises ⟨0x5, 0x3078, 0⟩ 48
  ⟨h.1, h.2.2.2.2.1, rfl, busMoves_pass 48, busMoves_count 48, rfl⟩

theorem witness_WriteLawUnderInterleaving :
    configOk (busState ⟨0x6, 0x12345678, 0⟩ 198).cfg = true
      ∧ (busState ⟨0x6, 0x12345678, 0⟩ 198).cfg.tag0 ≠ (busState ⟨0x6, 0x12345678, 0⟩ 198).cfg.tag1
      ∧ (busState ⟨0x6, 0x12345678, 0⟩ 198).cfg.tag2 ≠ (busState ⟨0x6, 0x12345678, 0⟩ 198).cfg.tag3
      ∧ Consistent (busState ⟨0x6, 0x12345678, 0⟩ 198) ∧ (busState ⟨0x6, 0x12345678, 0⟩ 198).opstate = .idle
      ∧ (∀ m ∈ busMoves 198, m.passes = true) ∧ (busMoves 198).count .block = 198
      ∧ (busState ⟨0x6, 0x12345678, 0⟩ 198).agenda
        = .host ⟨0x6, 0x12345678, 0⟩ :: (busMoves 198 ++ .block :: []) :=
  have h := bus_premises ⟨0x6, 0x12345678, 0⟩ 198
  ⟨h.1, h.2.2.1, h.2.2.2.1, h.2.2.2.2.1, rfl, busMoves_pass 198, busMoves_count 198, rfl⟩

/-- Both ends of the range of block moves. -/
theorem witness_MixedFrequencyDuringWrite :
    Consistent (busState ⟨0x6, 0x12345678, 0⟩ 99) ∧ Consistent (busState ⟨0x6, 0x12345678, 0⟩ 198)
      ∧ configOk Config.pEx = true ∧ Config.pEx.tag0 ≠ Config.pEx.tag1
      ∧ Config.pEx.tag2 ≠ Config.pEx.tag3
      ∧ (∀ m ∈ busMoves 99, m.passes = true) ∧ (∀ m ∈ busMoves 198, m.passes = true)
      ∧ (99 ≤ (busMoves 99).count .block ∧ (busMoves 99).count .block ≤ 198)
      ∧ (99 ≤ (busMoves 198).count .block ∧ (busMoves 198).count .block ≤ 198)
      ∧ (busState ⟨0x6, 0x12345678, 0⟩ 99).agenda = .host ⟨0x6, 0x12345678, 0⟩ :: (busMoves 99 ++ [.block]) := by
  refine ⟨ready_like _ _ _, ready_like _ _ _, by decide, by decide, by decide, busMoves_pass 99, busMoves_pass 198,
    ?_, ?_, rfl⟩ <;> rw [busMoves_count] <;> decide

theorem witness_InitUnderInterleaving :
    configOk (busState ⟨0x7, 0, 0⟩ 298).cfg = true ∧ framesApart (busState ⟨0x7, 0, 0⟩ 298).cfg = true
      ∧ Consistent (busState ⟨0x7, 0, 0⟩ 298) ∧ (busState ⟨0x7, 0, 0⟩ 298).opstate = .idle
      ∧ (∀ m ∈ busMoves 298, m.passes = true) ∧ (busMoves 298).count .block = 298
      ∧ (busState ⟨0x7, 0, 0⟩ 298).agenda = .host ⟨0x7, 0, 0⟩ :: (busMoves 298 ++ .block :: []) :=
  have h := bus_premises ⟨0x7, 0, 0⟩ 298
  ⟨h.1, h.2.1, h.2.2.2.2.1, rfl, busMoves_pass 298, busMoves_count 298, rfl⟩

theorem witness_TuneUnderInterleaving :
    configOk (busState ⟨0x8, 10000000, 1⟩ 199).cfg = true
      ∧ (busState ⟨0x8, 10000000, 1⟩ 199).cfg.tag0 ≠ (busState ⟨0x8, 10000000, 1⟩ 199).cfg.tag1
      ∧ (busState ⟨0x8, 10000000, 1⟩ 199).cfg.tag2 ≠ (busState ⟨0x8, 10000000, 1⟩ 199).cfg.tag3
      ∧ Consistent (busState ⟨0x8, 10000000, 1⟩ 199) ∧ (busState ⟨0x8, 10000000, 1⟩ 199).opstate = .idle
      ∧ (∀ m ∈ busMoves 199, m.passes = true) ∧ (busMoves 199).count .block = 199
      ∧ (busState ⟨0x8, 10000000, 1⟩ 199).agenda
        = .host ⟨0x8, 10000000, if true then 1 else 0⟩ :: (busMoves 199 ++ .block :: [])
      ∧ (10000000 : Word) = BitVec.ofInt 32 (max 100000 (min 20000000 (10000000 : Word).toInt)) :=
  have h := bus_premises ⟨0x8, 10000000, 1⟩ 199
  ⟨h.1, h.2.2.1, h.2.2.2.1, h.2.2.2.2.1, rfl, busMoves_pass 199, busMoves_count 199, rfl, by decide⟩

theorem witness_FrameStepsDriveOnePin :
    configOk ready.cfg = true
      ∧ (inside (.data 0 0) true).opstate = .sending (.raw 0x3078) (.data 0 0)
      ∧ (inside (.clkLow 0) true).opstate = .sending (.raw 0x3078) (.clkLow 0)
      ∧ (inside (.clkHigh 0) false).opstate = .sending (.raw 0x3078) (.clkHigh 0)
      ∧ (inside (.clkHigh 0) false).fsyncN = false ∧ (inside (.clkHigh 0) false).sclk = false := by decide

theorem witness_RelayStep :
    configOk ready.cfg = true
      ∧ ({ ready with opstate := .relaying 10000000, agenda := [.block] } : State).opstate = .relaying 10000000 := by
  decide

/-- For the statements about every step: a step that answers a next state, from a consistent state, that is no reset. -/
theorem witness_step :
    Consistent (within [] (inside (.fEnd 0) true)) ∧ (∃ t, step (within [] (inside (.fEnd 0) true)) = .next t)
      ∧ (within [] (inside (.fEnd 0) true)).agenda.head? ≠ some .reset :=
  ⟨{ inside_consistent with }, ⟨_, rfl⟩, by decide⟩

/-- For FaultMarkOnlyGrows and RefusalMarkOnlyGrows: marks that are set before a step. -/
theorem witness_marks :
    let s : State := { ready with fault := ⟨true, true⟩, refusals := ⟨true, true, true⟩ }
    s.fault.has .resultNotValid = true ∧ s.fault.has .ddsNotInitialised = true ∧ s.refusals.reservedOp = true
      ∧ s.refusals.reservedOperandBits = true ∧ s.refusals.badConfiguration = true ∧ (∃ t, step s = .next t) ∧ s.agenda.head? ≠ some .reset :=
  ⟨rfl, rfl, rfl, rfl, rfl, ⟨_, rfl⟩, by decide⟩

/-- For OpenEdgeCountsAtOnce, MaskedEdgeIsLatchedOnce, OtherLevelChangesCountNothing. -/
theorem witness_edges :
    configOk ready.cfg = true ∧ ready.encALast = false ∧ ready.imask = false
      ∧ (inside (.fEnd 0) true).encALast = false ∧ (inside (.fEnd 0) true).imask = true
      ∧ ((some false : Option Bool).getD ready.encA = false)
      ∧ ({ ready with encA := true, encALast := true } : State).encALast = true := by decide

theorem witness_PendingEdgeServicedAtFrameEnd :
    let s := within [.block] { inside (.fEnd 0) true with pend := true }
    configOk s.cfg = true ∧ s.opstate = .sending (.raw 0x3078) (.fEnd 0) ∧ s.agenda = .block :: []
      ∧ s.imaskSaved = false := by decide

theorem witness_NetSumOfEdges :
    configOk ready.cfg = true ∧ ready.opstate = .idle ∧ Consistent { ready with agenda := [.env (some true) none none] ++ .host ⟨0x1, 0, 0⟩ :: [] }
      ∧ ready.acc = 0 ∧ ∀ m ∈ [Move.env (some true) none none], m.outside = true :=
  ⟨by decide, rfl, ready_like _ _ _, rfl, by decide⟩

theorem witness_AccumulationLaw :
    configOk ready.cfg = true ∧ Consistent { ready with
      agenda := (List.replicate 1 [Move.env (some false) none none, Move.env (some true) none none]).flatten
        ++ .host ⟨0x1, 0, 0⟩ :: .host ⟨0x1, 0, 0⟩ :: [] }
      ∧ ready.acc = 0 ∧ ready.encB = false ∧ ready.opstate = .idle := ⟨by decide, ready_like _ _ _, rfl, rfl, rfl⟩

/-- TickTakesOneSample, its four clauses. -/
theorem witness_TickTakesOneSample :
    configOk waiting.cfg = true ∧ waiting.bstate = .bWait
      ∧ ({ waiting with btnN := true } : State).btnN = true
      ∧ waiting.btnN = false ∧ ({ waiting with acc := 1 } : State).acc ≠ 0 ∧ waiting.acc = 0
      ∧ ({ waiting with rem := 1 } : State).rem = 1 ∧ ({ waiting with rem := 2 } : State).rem ≠ 1 := by decide

theorem witness_SettleEndsInShortPress :
    ({ waiting with bstate := .bSettle } : State).bstate = .bSettle ∧ ready.bstate = .bIdle
      ∧ (within [.timer] ready).agenda = .timer :: [] := by decide

theorem witness_ClassificationTerminates :
    configOk ready.cfg = true ∧ ready.opstate = .idle ∧ Consistent { ready with agenda := .host ⟨0x2, 0, 1⟩ :: [.timer, .env none none (some true), .timer] }
      ∧ (1 : Half).toNat + 1 ≤ [Move.timer, .env none none (some true), .timer].count .timer
      ∧ ∀ m ∈ [Move.timer, .env none none (some true), .timer], m.outside = true ∨ m = .timer :=
  ⟨by decide, rfl, ready_like _ _ _, by decide, by decide⟩

/-- ClassifierExamples: the state, and the source's budgets and ticks. -/
theorem witness_ClassifierExamples :
    let s : State := { ready with btnN := false }
    configOk s.cfg = true ∧ s.opstate = .idle ∧ s.bstate = .bIdle ∧ s.imask = false ∧ s.btnN = false ∧ s.acc = 0
      ∧ 5 < (50 : Half).toNat ∧ 2 < (50 : Half).toNat ∧ 0 < (1 : Half).toNat := by decide

/-- For RatioIsTheNearestInteger, TuningWordClosedForm, TuningWordMonotone, IfOffsetRoundTrip: values at the ends of
the ranges. -/
theorem witness_frequency :
    configOk Config.pEx = true ∧ configOk { Config.pEx with refClkHz := 2 } = true
      ∧ configOk { Config.pEx with refClkHz := 2 ^ 32 } = true
      ∧ (ratioK Config.pEx : Int) * 49941480 < 2 ^ 32 ∧ |(-2138483647 : Int)| + Config.pEx.ifHz < 2 ^ 31 := by
  decide

theorem witness_ClampKeepsTheRange : (99999 : Int) < 100000 ∧ (20000000 : Int) < 20000001 ∧ (100000 : Int) ≤ 100000 := by
  decide

/-- For ReadOfResult and ResetAbandonsTheOperation. -/
theorem witness_readRes_and_reset :
    ({ ready with resValid := true } : State).resValid = true ∧ ready.resValid = false
      ∧ (within [.readRes] ready).agenda = .readRes :: [] ∧ (within [.reset] waiting).agenda = .reset :: [] := by decide

/-- For RelayWrittenOnlyByTuning: a step that changes the relay. -/
theorem witness_RelayWrittenOnlyByTuning :
    nextIs (step { ready with opstate := .relaying 10000001 }) (fun t => t.relay != ready.relay) = true := by decide

/-- For ReadySetOnlyByInit: a step that sets `DDS_READY`. -/
theorem witness_ReadySetOnlyByInit :
    nextIs (step { inside (.fEnd 0) true with ddsReady := false, opstate := .sending .init (.fEnd 5) })
      (fun t => t.ddsReady) = true := by decide

/-- For AccumulatorWriters: a poll that changes `ACC`. -/
theorem witness_AccumulatorWriters :
    nextIs (step (within [.host ⟨0x1, 0, 0⟩] { ready with acc := 1 })) (fun t => t.acc != 1) = true := by decide

/-- For AccumulatorHeldWithinAFrame: an edge inside a frame that goes on. -/
theorem witness_AccumulatorHeldWithinAFrame :
    inFrame (inside (.fEnd 0) true).opstate = true
      ∧ nextIs (step (within [.env (some true) none none] (inside (.fEnd 0) true)))
        (fun t => inFrame t.opstate && t.pend) = true := by decide

theorem witness_SuccessfulEndIsStable :
    successfulEnd ready = true ∧ ready.agenda = [] := by decide

end Sys2Proof.Tests
end

section
/-! SUPPORT. The family of spec/00_scope.md: which configurations start (R8, R205), and how many pin events one step
gives (R11, R33, R55). -/

namespace Sys2Proof.Machine

/-! ### The configuration and the totality of the step -/

/-- The test of the configuration, in numbers and tags (R8). -/
theorem configOk_iff (c : Config) :
    configOk c = true ↔ 2 ≤ c.refClkHz ∧ c.refClkHz ≤ 2 ^ 32 ∧ c.ifHz ≤ 79999999
      ∧ c.tag0 ≠ c.tag2 ∧ c.tag0 ≠ c.tag3 ∧ c.tag1 ≠ c.tag2 ∧ c.tag1 ≠ c.tag3 := by
  simp [configOk, and_assoc]

theorem issue_next (w : HostWord) {s : State} (h : s.opstate = .idle) : ∃ t, issue w s = .next t := by
  obtain ⟨_, t, -, -, ht⟩ | ⟨_, -, -, ht⟩ | ⟨_, -, ht⟩ := issue_cases w s h
  · exact ⟨t, ht⟩
  · exact ⟨_, ht⟩
  · exact ⟨_, ht⟩

/-- Every move answers a next state: a host operation is started, recorded as refused, or held (R205, R206). -/
theorem takeMove_next (m : Move) (rest : List Move) (s : State) : ∃ t, takeMove m rest s = .next t := by
  cases m with
  | host w =>
    simp only [takeMove]
    split
    · next hidle => exact issue_next w hidle
    all_goals exact progress_next s
  | block => exact blockStep_next _
  | readRes | env | timer | reset => exact ⟨_, rfl⟩

theorem nextMove_next (s : State) : ∃ t, nextMove s = .next t := by
  unfold nextMove
  split
  · exact progress_next s
  · exact takeMove_next _ _ s

/-- Under a well-formed configuration every step answers a next state. -/
theorem step_next_of_configOk {s : State} (h : configOk s.cfg = true) : ∃ t, step s = .next t := by
  obtain ⟨t, ht⟩ := nextMove_next s
  exact ⟨t, by simp [step, guarded, h, ht]⟩

theorem step_of_not_configOk {s : State} (h : configOk s.cfg = false) : step s = .refused .badConfiguration := by
  simp [step, guarded, h]

/-- The configuration is the only reason for which a step is refused (R205). -/
theorem step_refused_badConfiguration_iff (s : State) :
    step s = .refused .badConfiguration ↔ configOk s.cfg = false := by
  refine ⟨fun hstep => ?_, step_of_not_configOk⟩
  by_contra hok
  obtain ⟨t, ht⟩ := step_next_of_configOk (by simpa using hok)
  simp [ht] at hstep

theorem boot_of_configOk {c : Config} (h : configOk c = true) (a b n : Bool) (draw : Nat) (ms : List Move) :
    boot c a b n draw ms = .next (State.resetOf c a b n draw ms) := by
  simp [boot, h]

theorem boot_of_not_configOk {c : Config} (h : configOk c = false) (a b n : Bool) (draw : Nat) (ms : List Move) :
    boot c a b n draw ms = .refused .badConfiguration := by
  simp [boot, h]

theorem successfulEnd_of_not_configOk {s : State} (h : configOk s.cfg = false) : successfulEnd s = false := by
  simp [successfulEnd, h]

/-- Settles O10, by the test of the configuration and the totality of the step under it. -/
theorem badConfigurationIsRefused : Obligations.BadConfigurationIsRefused := by
  intro s a b n draw ms breaksR8
  have hbreaks : breaksR8 ↔ configOk s.cfg = false := by
    rw [← Bool.not_eq_true, configOk_iff]
  simp only [hbreaks, Bool.not_eq_false]
  exact ⟨step_refused_badConfiguration_iff s, fun h => boot_of_not_configOk h a b n draw ms,
    fun h => boot_of_configOk h a b n draw ms, by simp, successfulEnd_of_not_configOk⟩

/-! ### What each operation appends to the trace -/

@[simp] theorem State.evaluate_trace (s : State) : s.evaluate.trace = s.trace := by
  obtain ⟨-, h⟩ | ⟨-, -, h⟩ | ⟨-, -, -, h⟩ | ⟨-, -, -, h⟩ := evaluate_cases s <;> rw [h] <;> rfl

@[simp] theorem State.timerStep_trace (s : State) : s.timerStep.trace = s.trace := by
  obtain ⟨-, h⟩ | ⟨-, h⟩ | ⟨-, h⟩ := timerStep_cases s <;> simp [h]

@[simp] theorem State.classify_trace (b : Half) (s : State) : (s.classify b).trace = s.trace := by
  obtain ⟨-, h⟩ | ⟨-, h⟩ := classify_cases b s <;> simp [h]

@[simp] theorem State.envStep_trace (a b n : Option Bool) (s : State) : (s.envStep a b n).trace = s.trace := by
  rw [envStep_eq]

@[simp] theorem State.startFrame_trace (t : Transfer) (k : Nat) (s : State) :
    (s.startFrame t k).trace = s.trace ++ [(.fsyncN, false)] :=
  congrArg State.trace (startFrame_eq t k s)

@[simp] theorem State.endFramePins_trace (s : State) : s.endFramePins.trace = s.trace ++ [(.fsyncN, true)] :=
  congrArg State.trace (endFramePins_eq s)

@[simp] theorem State.relayStep_trace (a : Word) (s : State) :
    (s.relayStep a).trace = s.trace ++ [(.relay, relayLevel a)] :=
  congrArg State.trace (relayStep_eq a s)

@[simp] theorem State.afterFrame_trace (t : Transfer) (k : Nat) (s : State) : (s.afterFrame t k).trace = s.trace := by
  obtain ⟨-, h⟩ | ⟨-, ⟨_, -, h⟩ | ⟨_, -, h⟩ | ⟨-, h⟩ | ⟨_, _, -, h⟩⟩ := afterFrame_cases t k s <;> rw [h] <;> rfl

/-! ### At most one pin event in a step -/

/-- The trace of `t` is that of `s`, with at most one event appended. -/
def AddsAtMostOneEvent (s t : State) : Prop := t.trace = s.trace ∨ ∃ e, t.trace = s.trace ++ [e]

theorem AddsAtMostOneEvent.none {s t : State} (h : t.trace = s.trace) : AddsAtMostOneEvent s t := .inl h

theorem AddsAtMostOneEvent.one {s t : State} (e : PinEvent) (h : t.trace = s.trace ++ [e]) : AddsAtMostOneEvent s t :=
  .inr ⟨e, h⟩

/-- Only the operations that start a frame drive a pin in their first step (R161). -/
theorem exec_addsAtMostOneEvent {i : Instr} {s t : State} (h : exec i s = .next t) : AddsAtMostOneEvent s t := by
  cases i with
  | encPoll => obtain ⟨-, rfl⟩ := whenIdle_next h; exact .none rfl
  | btnClassify budget => obtain ⟨-, rfl⟩ := whenIdle_next h; exact .none (by simp)
  | fmVfo f usb => obtain ⟨-, rfl⟩ := whenIdle_next h; exact .none rfl
  | fmTword v => obtain ⟨-, rfl⟩ := whenIdle_next h; exact .none rfl
  | serXfer16 frame => obtain ⟨-, rfl⟩ := whenIdle_next h; exact .one (.fsyncN, false) (by simp [State.startRaw])
  | ddsWriteTw word => obtain ⟨-, rfl⟩ := whenIdle_next h; exact .one (.fsyncN, false) (by simp [State.startWrite])
  | ddsInit => obtain ⟨-, rfl⟩ := whenIdle_next h; exact .one (.fsyncN, false) (by simp [State.startInit])
  | tuneSetfreq f usb => obtain ⟨-, rfl⟩ := whenIdle_next h; exact .one (.fsyncN, false) (by simp [State.startTune])
  | reservedOpZero | reservedOpHigh => cases h
  | frameDefer8Low | frameWrite16Low | frameDefer8High | frameWrite16High | frameCmdSrc | frameCmdCtrl =>
    cases h; exact .none rfl

theorem issue_addsAtMostOneEvent {w : HostWord} {s t : State} (hidle : s.opstate = .idle)
    (h : issue w s = .next t) : AddsAtMostOneEvent s t := by
  obtain ⟨_, u, -, hexec, hu⟩ | ⟨_, -, -, hu⟩ | ⟨_, -, hu⟩ := issue_cases w s hidle <;> cases hu.symm.trans h
  · exact exec_addsAtMostOneEvent (s := s.latch w) hexec
  · exact .none rfl
  · exact .none rfl

/-- Each step of a frame drives one pin (R161); what the chip reader does at F_END reaches no pin (R168). -/
theorem sendStep_addsAtMostOneEvent {tr : Transfer} {p : Phase} {s t : State} (h : sendStep tr p s = .next t) :
    AddsAtMostOneEvent s t := by
  cases p with
  | gap k => cases h; exact .one _ (State.startFrame_trace tr k s)
  | data k i => cases h; exact .one (.sdata, s.shift.getLsbD i.toNat) (by simp [State.dataStep])
  | clkLow k => cases h; exact .one (.sclk, false) (by simp [State.clkLowStep])
  | clkHigh k => cases h; exact .one (.sclk, true) (by simp [State.clkHighStep])
  | fEnd k =>
    obtain ⟨st, fr, d, hend⟩ := endFrame_next tr k s
    cases hend.symm.trans h
    exact .one (.fsyncN, true) (by simp)

theorem blockStep_addsAtMostOneEvent {s t : State} (h : blockStep s = .next t) : AddsAtMostOneEvent s t := by
  unfold blockStep at h
  split at h
  · cases h; exact .none rfl
  · cases h; exact .none rfl
  · exact sendStep_addsAtMostOneEvent h
  · cases h; exact .one _ (State.relayStep_trace _ s)

theorem progress_addsAtMostOneEvent {s t : State} (h : progress s = .next t) : AddsAtMostOneEvent s t := by
  unfold progress at h
  split at h
  · cases h; exact .none rfl
  · cases h; exact .none (State.timerStep_trace s)
  · exact blockStep_addsAtMostOneEvent h
  · exact blockStep_addsAtMostOneEvent h

/-- Settles O31, by the moves a step can take. -/
theorem traceGrowsByAtMostOneEvent : Obligations.TraceGrowsByAtMostOneEvent := by
  intro s t hstep hreset
  change AddsAtMostOneEvent s t
  obtain ⟨-, ⟨-, h⟩ | ⟨w, rest, -, hidle, h⟩ | ⟨w, rest, -, -, h⟩ | ⟨rest, -, rfl⟩ | ⟨a, b, n, rest, -, rfl⟩ |
    ⟨rest, -, rfl⟩ | ⟨rest, -, h⟩ | ⟨rest, hagenda, -⟩⟩ := step_cases hstep
  · exact progress_addsAtMostOneEvent h
  · exact issue_addsAtMostOneEvent (s := s.withAgenda rest) hidle h
  · exact progress_addsAtMostOneEvent h
  · exact .none (by simp)
  · exact .none (by simp)
  · exact .none (by simp)
  · exact blockStep_addsAtMostOneEvent (s := s.withAgenda rest) h
  · exact absurd (by simp [hagenda]) hreset

end Sys2Proof.Machine
end

section
/-! SUPPORT. The family of spec/10_state.md: which step writes which element of the state (R20 to R36, R54), the step
that runs a decoded operation (R30, R60), the latched edge (R25, R101), and the reset values (R39, R220). -/

namespace Sys2Proof.Machine

/-! ### What each operation leaves unchanged -/

/-- ENC_POLL clears `ACC` (R103). -/
@[simp] theorem State.poll_frame (s : State) :
    s.poll.cfg = s.cfg ∧ s.poll.encA = s.encA ∧ s.poll.encB = s.encB
      ∧ s.poll.btnN = s.btnN ∧ s.poll.relay = s.relay ∧ s.poll.ddsReady = s.ddsReady := by
  simp [State.poll]

@[simp] theorem State.computeVfo_frame (f : Word) (usb : Bool) (s : State) :
    (s.computeVfo f usb).cfg = s.cfg ∧ (s.computeVfo f usb).encA = s.encA ∧ (s.computeVfo f usb).encB = s.encB
      ∧ (s.computeVfo f usb).btnN = s.btnN ∧ (s.computeVfo f usb).relay = s.relay
      ∧ (s.computeVfo f usb).ddsReady = s.ddsReady ∧ (s.computeVfo f usb).acc = s.acc := by
  simp [State.computeVfo]

@[simp] theorem State.computeWord_frame (v : Word) (s : State) :
    (s.computeWord v).cfg = s.cfg ∧ (s.computeWord v).encA = s.encA ∧ (s.computeWord v).encB = s.encB
      ∧ (s.computeWord v).btnN = s.btnN ∧ (s.computeWord v).relay = s.relay
      ∧ (s.computeWord v).ddsReady = s.ddsReady ∧ (s.computeWord v).acc = s.acc := by
  simp [State.computeWord]

@[simp] theorem State.evaluate_frame (s : State) :
    s.evaluate.cfg = s.cfg ∧ s.evaluate.encA = s.encA ∧ s.evaluate.encB = s.encB ∧ s.evaluate.btnN = s.btnN
      ∧ s.evaluate.relay = s.relay ∧ s.evaluate.ddsReady = s.ddsReady ∧ s.evaluate.acc = s.acc := by
  obtain ⟨-, h⟩ | ⟨-, -, h⟩ | ⟨-, -, -, h⟩ | ⟨-, -, -, h⟩ := evaluate_cases s <;> simp [h]

@[simp] theorem State.timerStep_frame (s : State) :
    s.timerStep.cfg = s.cfg ∧ s.timerStep.encA = s.encA ∧ s.timerStep.encB = s.encB ∧ s.timerStep.btnN = s.btnN
      ∧ s.timerStep.relay = s.relay ∧ s.timerStep.ddsReady = s.ddsReady ∧ s.timerStep.acc = s.acc := by
  obtain ⟨-, h⟩ | ⟨-, h⟩ | ⟨-, h⟩ := timerStep_cases s <;> simp [h]

@[simp] theorem State.classify_frame (b : Half) (s : State) :
    (s.classify b).cfg = s.cfg ∧ (s.classify b).encA = s.encA ∧ (s.classify b).encB = s.encB
      ∧ (s.classify b).btnN = s.btnN ∧ (s.classify b).relay = s.relay ∧ (s.classify b).ddsReady = s.ddsReady
      ∧ (s.classify b).acc = s.acc := by
  obtain ⟨-, h⟩ | ⟨-, h⟩ := classify_cases b s <;> simp [h]

/-- The environment's step is the one that writes the inputs and, at an edge, `ACC`. -/
@[simp] theorem State.envStep_frame (a b n : Option Bool) (s : State) :
    (s.envStep a b n).cfg = s.cfg ∧ (s.envStep a b n).relay = s.relay
      ∧ (s.envStep a b n).ddsReady = s.ddsReady := by
  rw [envStep_eq]
  exact ⟨rfl, rfl, rfl⟩

/-- Step F0 sets the mask and so services no edge: `ACC` stays (R102, R161). -/
@[simp] theorem State.startFrame_frame (t : Transfer) (k : Nat) (s : State) :
    (s.startFrame t k).cfg = s.cfg ∧ (s.startFrame t k).encA = s.encA ∧ (s.startFrame t k).encB = s.encB
      ∧ (s.startFrame t k).btnN = s.btnN ∧ (s.startFrame t k).relay = s.relay
      ∧ (s.startFrame t k).ddsReady = s.ddsReady ∧ (s.startFrame t k).acc = s.acc := by
  simp [startFrame_eq]

@[simp] theorem State.startRaw_frame (f : Half) (s : State) :
    (s.startRaw f).cfg = s.cfg ∧ (s.startRaw f).encA = s.encA ∧ (s.startRaw f).encB = s.encB
      ∧ (s.startRaw f).btnN = s.btnN ∧ (s.startRaw f).relay = s.relay ∧ (s.startRaw f).ddsReady = s.ddsReady
      ∧ (s.startRaw f).acc = s.acc := by
  simp [State.startRaw]

@[simp] theorem State.startWrite_frame (v : Word) (s : State) :
    (s.startWrite v).cfg = s.cfg ∧ (s.startWrite v).encA = s.encA ∧ (s.startWrite v).encB = s.encB
      ∧ (s.startWrite v).btnN = s.btnN ∧ (s.startWrite v).relay = s.relay ∧ (s.startWrite v).ddsReady = s.ddsReady
      ∧ (s.startWrite v).acc = s.acc := by
  simp [State.startWrite]

@[simp] theorem State.startInit_frame (s : State) :
    s.startInit.cfg = s.cfg ∧ s.startInit.encA = s.encA ∧ s.startInit.encB = s.encB
      ∧ s.startInit.btnN = s.btnN ∧ s.startInit.relay = s.relay ∧ s.startInit.ddsReady = s.ddsReady
      ∧ s.startInit.acc = s.acc := by
  simp [State.startInit]

@[simp] theorem State.startTune_frame (f : Word) (usb : Bool) (s : State) :
    (s.startTune f usb).cfg = s.cfg ∧ (s.startTune f usb).encA = s.encA ∧ (s.startTune f usb).encB = s.encB
      ∧ (s.startTune f usb).btnN = s.btnN ∧ (s.startTune f usb).relay = s.relay
      ∧ (s.startTune f usb).ddsReady = s.ddsReady ∧ (s.startTune f usb).acc = s.acc := by
  simp [State.startTune]

@[simp] theorem State.dataStep_frame (t : Transfer) (k : Nat) (i : BitVec 4) (s : State) :
    (s.dataStep t k i).cfg = s.cfg ∧ (s.dataStep t k i).encA = s.encA ∧ (s.dataStep t k i).encB = s.encB
      ∧ (s.dataStep t k i).btnN = s.btnN ∧ (s.dataStep t k i).relay = s.relay
      ∧ (s.dataStep t k i).ddsReady = s.ddsReady ∧ (s.dataStep t k i).acc = s.acc := by
  simp [State.dataStep]

@[simp] theorem State.clkLowStep_frame (t : Transfer) (k : Nat) (s : State) :
    (s.clkLowStep t k).cfg = s.cfg ∧ (s.clkLowStep t k).encA = s.encA ∧ (s.clkLowStep t k).encB = s.encB
      ∧ (s.clkLowStep t k).btnN = s.btnN ∧ (s.clkLowStep t k).relay = s.relay
      ∧ (s.clkLowStep t k).ddsReady = s.ddsReady ∧ (s.clkLowStep t k).acc = s.acc := by
  simp [State.clkLowStep]

@[simp] theorem State.clkHighStep_frame (t : Transfer) (k : Nat) (s : State) :
    (s.clkHighStep t k).cfg = s.cfg ∧ (s.clkHighStep t k).encA = s.encA ∧ (s.clkHighStep t k).encB = s.encB
      ∧ (s.clkHighStep t k).btnN = s.btnN ∧ (s.clkHighStep t k).relay = s.relay
      ∧ (s.clkHighStep t k).ddsReady = s.ddsReady ∧ (s.clkHighStep t k).acc = s.acc := by
  simp [State.clkHighStep]

@[simp] theorem State.endFramePins_frame (s : State) :
    s.endFramePins.cfg = s.cfg ∧ s.endFramePins.encA = s.encA ∧ s.endFramePins.encB = s.encB
      ∧ s.endFramePins.btnN = s.btnN ∧ s.endFramePins.relay = s.relay
      ∧ s.endFramePins.ddsReady = s.ddsReady := by
  rw [endFramePins_eq]
  exact ⟨rfl, rfl, rfl, rfl, rfl, rfl⟩

@[simp] theorem State.afterFrame_frame (t : Transfer) (k : Nat) (s : State) :
    (s.afterFrame t k).cfg = s.cfg ∧ (s.afterFrame t k).encA = s.encA ∧ (s.afterFrame t k).encB = s.encB
      ∧ (s.afterFrame t k).btnN = s.btnN ∧ (s.afterFrame t k).relay = s.relay := by
  obtain ⟨-, h⟩ | ⟨-, ⟨_, -, h⟩ | ⟨_, -, h⟩ | ⟨-, h⟩ | ⟨_, _, -, h⟩⟩ := afterFrame_cases t k s <;> simp [h]

/-- Where `DDS_READY` is 1 after a frame's end, it was 1 before, or the frame was the last of DDS_INIT (R34, R166). -/
theorem ready_or_init_of_afterFrame {t : Transfer} {k : Nat} {s : State} (hready : (s.afterFrame t k).ddsReady = true) :
    s.ddsReady = true ∨ (t = .init ∧ 5 ≤ k) := by
  obtain ⟨-, h⟩ | ⟨hlast, ⟨_, -, h⟩ | ⟨_, -, h⟩ | ⟨rfl, -⟩ | ⟨_, _, -, h⟩⟩ := afterFrame_cases t k s
  case inr.inr.inr.inl => exact .inr ⟨rfl, hlast⟩
  all_goals exact .inl (by simpa [h] using hready)

@[simp] theorem State.relayStep_frame (a : Word) (s : State) :
    (s.relayStep a).cfg = s.cfg ∧ (s.relayStep a).encA = s.encA ∧ (s.relayStep a).encB = s.encB
      ∧ (s.relayStep a).btnN = s.btnN ∧ (s.relayStep a).ddsReady = s.ddsReady ∧ (s.relayStep a).acc = s.acc := by
  simp [relayStep_eq]

/-- A reset leaves what is not the block's: the configuration and the input levels (log entry 18). -/
@[simp] theorem State.resetNow_frame (s : State) :
    s.resetNow.cfg = s.cfg ∧ s.resetNow.encA = s.encA ∧ s.resetNow.encB = s.encB ∧ s.resetNow.btnN = s.btnN :=
  ⟨rfl, rfl, rfl, rfl⟩

/-! ### The step, one case for each atomic step of an agent -/

/-- The next move is the host's operation `w`, the interface is idle, and `w` decodes to `i` (R60, R206). -/
structure State.Takes (s : State) (w : HostWord) (i : Instr) : Prop where
  listed : ∃ rest, s.agenda = .host w :: rest
  idle : s.opstate = .idle
  decoded : decodeHost w = .ok i

/-- What a step from `s` can answer, where `u` is `s` with the moves that are left: one constructor for each atomic
step of R12, with what `s` must be for it. `step_effect` ties it to `step`. -/
inductive StepEffect (s u : State) : State → Prop
  /-- No agent has a step to take (log entries 3, 15). -/
  | waits : StepEffect s u u
  /-- A reserved code is recorded (R205). -/
  | refusesCode : StepEffect s u u.recordReservedOp
  /-- A nonzero must-be-zero operand bit is recorded (R205). -/
  | refusesBits : StepEffect s u u.recordReservedBits
  /-- ENC_POLL (R103). -/
  | polls {w : HostWord} (h : s.Takes w .encPoll) : StepEffect s u (u.latch w).poll
  /-- BTN_CLASSIFY starts (R121). -/
  | classifies {w : HostWord} {b : Half} (h : s.Takes w (.btnClassify b)) : StepEffect s u ((u.latch w).classify b)
  /-- FM_VFO (R145). -/
  | computesVfo {w : HostWord} {f : Word} {usb : Bool} (h : s.Takes w (.fmVfo f usb)) :
      StepEffect s u ((u.latch w).computeVfo f usb)
  /-- FM_TWORD (R146). -/
  | computesWord {w : HostWord} {v : Word} (h : s.Takes w (.fmTword v)) : StepEffect s u ((u.latch w).computeWord v)
  /-- SER_XFER16 starts (R162). -/
  | startsRaw {w : HostWord} {f : Half} (h : s.Takes w (.serXfer16 f)) : StepEffect s u ((u.latch w).startRaw f)
  /-- DDS_WRITE_TW starts (R163). -/
  | startsWrite {w : HostWord} {v : Word} (h : s.Takes w (.ddsWriteTw v)) : StepEffect s u ((u.latch w).startWrite v)
  /-- DDS_INIT starts (R166). -/
  | startsInit {w : HostWord} (h : s.Takes w .ddsInit) : StepEffect s u (u.latch w).startInit
  /-- TUNE_SETFREQ starts (R181). -/
  | startsTune {w : HostWord} {f : Word} {usb : Bool} (h : s.Takes w (.tuneSetfreq f usb)) :
      StepEffect s u ((u.latch w).startTune f usb)
  /-- TICK or SETTLE_DONE (R123, R124). -/
  | ticks : StepEffect s u u.timerStep
  /-- Step F0 of a later frame (R161). -/
  | startsFrame {t : Transfer} {k : Nat} (h : s.opstate = .sending t (.gap k)) : StepEffect s u (u.startFrame t k)
  /-- The data event of a bit (R161). -/
  | drivesData {t : Transfer} {k : Nat} {i : BitVec 4} (h : s.opstate = .sending t (.data k i)) :
      StepEffect s u (u.dataStep t k i)
  /-- The falling clock of a bit (R161). -/
  | lowersClock {t : Transfer} {k : Nat} (h : s.opstate = .sending t (.clkLow k)) : StepEffect s u (u.clkLowStep t k)
  /-- The rising clock of a bit (R161). -/
  | raisesClock {t : Transfer} {k : Nat} (h : s.opstate = .sending t (.clkHigh k)) : StepEffect s u (u.clkHighStep t k)
  /-- Step F_END, with whatever the chip reader makes of the frame (R161, R168). -/
  | endsFrame {t : Transfer} {k : Nat} (st : Byte) (fr : Word) (d : Nat) (h : s.opstate = .sending t (.fEnd k)) :
      StepEffect s u (State.afterFrame t k { u.endFramePins with stage := st, freq := fr, draws := d })
  /-- The final step of TUNE_SETFREQ (R181, R182). -/
  | setsRelay {a : Word} (h : s.opstate = .relaying a) : StepEffect s u (u.relayStep a)
  /-- The host reads `RES` (R203). -/
  | reads : StepEffect s u u.readRes
  /-- The environment sets the input pins (R101, R211). -/
  | setsInputs {a b n : Option Bool} {rest : List Move} (h : s.agenda = .env a b n :: rest) :
      StepEffect s u (u.envStep a b n)
  /-- Reset (R220). -/
  | resets {rest : List Move} (h : s.agenda = .reset :: rest) : StepEffect s u u.resetNow

theorem issue_effect {s t : State} {w : HostWord} {rest : List Move} (hagenda : s.agenda = .host w :: rest)
    (hidle : s.opstate = .idle) (h : issue w (s.withAgenda rest) = .next t) :
    StepEffect s (s.withAgenda rest) t := by
  obtain ⟨i, u, hdec, hexec, hu⟩ | ⟨_, -, -, hu⟩ | ⟨_, -, hu⟩ := issue_cases w (s.withAgenda rest) hidle <;>
    cases hu.symm.trans h
  · have htakes : s.Takes w i := ⟨⟨rest, hagenda⟩, hidle, hdec⟩
    cases i with
    | encPoll => obtain ⟨-, rfl⟩ := whenIdle_next hexec; exact .polls htakes
    | btnClassify b => obtain ⟨-, rfl⟩ := whenIdle_next hexec; exact .classifies htakes
    | fmVfo f usb => obtain ⟨-, rfl⟩ := whenIdle_next hexec; exact .computesVfo htakes
    | fmTword v => obtain ⟨-, rfl⟩ := whenIdle_next hexec; exact .computesWord htakes
    | serXfer16 f => obtain ⟨-, rfl⟩ := whenIdle_next hexec; exact .startsRaw htakes
    | ddsWriteTw v => obtain ⟨-, rfl⟩ := whenIdle_next hexec; exact .startsWrite htakes
    | ddsInit => obtain ⟨-, rfl⟩ := whenIdle_next hexec; exact .startsInit htakes
    | tuneSetfreq f usb => obtain ⟨-, rfl⟩ := whenIdle_next hexec; exact .startsTune htakes
    | reservedOpZero | reservedOpHigh => cases hexec
    | frameDefer8Low | frameWrite16Low | frameDefer8High | frameWrite16High | frameCmdSrc | frameCmdCtrl =>
      cases decodeHost_not_frame hdec
  · exact .refusesCode
  · exact .refusesBits

theorem blockStep_effect {s u t : State} (hop : u.opstate = s.opstate) (h : blockStep u = .next t) :
    StepEffect s u t := by
  unfold blockStep at h
  split at h
  · cases h; exact .waits
  · cases h; exact .waits
  · next tr p hsend =>
    rw [hop] at hsend
    cases p with
    | gap k => cases h; exact .startsFrame hsend
    | data k i => cases h; exact .drivesData hsend
    | clkLow k => cases h; exact .lowersClock hsend
    | clkHigh k => cases h; exact .raisesClock hsend
    | fEnd k =>
      obtain ⟨st, fr, d, hend⟩ := endFrame_next tr k u
      cases hend.symm.trans h
      exact .endsFrame st fr d hsend
  · next a hrelay => cases h; exact .setsRelay (hop ▸ hrelay)

theorem progress_effect {s t : State} (h : progress s = .next t) : StepEffect s s t := by
  unfold progress at h
  split at h
  · cases h; exact .waits
  · cases h; exact .ticks
  · exact blockStep_effect rfl h
  · exact blockStep_effect rfl h

/-- Every step is one of the atomic steps, taken in the state with some moves left. -/
theorem step_effect {s t : State} (h : step s = .next t) : ∃ ms, StepEffect s (s.withAgenda ms) t := by
  obtain ⟨-, ⟨-, h⟩ | ⟨w, rest, hagenda, hidle, h⟩ | ⟨w, rest, -, -, h⟩ | ⟨rest, -, rfl⟩ |
    ⟨a, b, n, rest, hagenda, rfl⟩ | ⟨rest, -, rfl⟩ | ⟨rest, -, h⟩ | ⟨rest, hagenda, rfl⟩⟩ := step_cases h
  · exact ⟨s.agenda, progress_effect h⟩
  · exact ⟨rest, issue_effect hagenda hidle h⟩
  · exact ⟨s.agenda, progress_effect h⟩
  · exact ⟨rest, .reads⟩
  · exact ⟨rest, .setsInputs hagenda⟩
  · exact ⟨rest, .ticks⟩
  · exact ⟨rest, blockStep_effect rfl h⟩
  · exact ⟨rest, .resets hagenda⟩

/-! ### Which steps write the configuration, the inputs, the relay, `DDS_READY` and `ACC` -/

/-- No atomic step writes the configuration (R20). -/
theorem StepEffect.cfg_eq {s t : State} {ms : List Move} (h : StepEffect s (s.withAgenda ms) t) : t.cfg = s.cfg := by
  cases h <;> simp

/-- An atomic step that is not the environment's leaves the input pins (R27). -/
theorem StepEffect.inputs_eq {s t : State} {ms : List Move} (h : StepEffect s (s.withAgenda ms) t)
    (henv : ∀ a b n rest, s.agenda ≠ .env a b n :: rest) : t.encA = s.encA ∧ t.encB = s.encB ∧ t.btnN = s.btnN := by
  cases h with
  | setsInputs hagenda => exact absurd hagenda (henv _ _ _ _)
  | _ => simp

/-- Settles O55, by what each atomic step leaves unchanged. -/
theorem configurationAndInputsAreNotWritten : Obligations.ConfigurationAndInputsAreNotWritten := by
  intro s t hstep
  obtain ⟨ms, heffect⟩ := step_effect hstep
  have hcfg := heffect.cfg_eq
  exact ⟨hcfg, fun k => by rw [hcfg], heffect.inputs_eq⟩

/-- Settles O56: of the atomic steps, only the final one of TUNE_SETFREQ and a reset reach the relay. -/
theorem relayWrittenOnlyByTuning : Obligations.RelayWrittenOnlyByTuning := by
  intro s t hstep hchanged
  obtain ⟨ms, heffect⟩ := step_effect hstep
  cases heffect with
  | setsRelay hop => exact .inl ⟨_, hop⟩
  | resets hagenda => exact .inr (by simp [hagenda])
  | _ => simp at hchanged

/-- Settles O57: of the atomic steps, only the end of a frame and a reset reach `DDS_READY`; the reset clears it. -/
theorem readySetOnlyByInit : Obligations.ReadySetOnlyByInit := by
  intro s t hstep hbefore hafter
  obtain ⟨ms, heffect⟩ := step_effect hstep
  cases heffect with
  | endsFrame st fr d hop =>
    obtain hready | ⟨rfl, hlast⟩ := ready_or_init_of_afterFrame hafter
    · simp [hbefore] at hready
    · exact ⟨_, hlast, hop⟩
  | resets => cases hafter
  | _ => simp [hbefore] at hafter

/-- Only the code 1 is ENC_POLL's (R61). -/
theorem op_of_decodeHost_encPoll {w : HostWord} (h : decodeHost w = .ok .encPoll) : w.op = 0x1 := by
  unfold decodeHost at h
  split at h
  case h_2 hop => exact BitVec.eq_of_toNat_eq hop
  all_goals (try split at h) <;> cases h

/-- Settles O58: of the atomic steps, an edge, a service at a frame's end, a poll and a reset reach `ACC`. -/
theorem accumulatorWriters : Obligations.AccumulatorWriters := by
  intro s t hstep hchanged
  obtain ⟨ms, heffect⟩ := step_effect hstep
  cases heffect with
  | setsInputs hagenda => exact .inl ⟨_, _, _, _, hagenda⟩
  | endsFrame st fr d hop => exact .inr (.inl ⟨_, _, hop⟩)
  | polls htakes =>
    obtain ⟨rest, hagenda⟩ := htakes.listed
    exact .inr (.inr (.inl ⟨_, rest, hagenda, htakes.idle, op_of_decodeHost_encPoll htakes.decoded⟩))
  | resets hagenda => exact .inr (.inr (.inr (by simp [hagenda])))
  | _ => simp at hchanged

/-! ### The step that runs a decoded operation -/

/-- Idle, with a host operation as the next move, the step is the host interface's (R60). -/
theorem step_of_host {s : State} {w : HostWord} {rest : List Move} (hcfg : configOk s.cfg = true)
    (hidle : s.opstate = .idle) (hagenda : s.agenda = .host w :: rest) : step s = issue w (s.withAgenda rest) := by
  simp [step, guarded, nextMove, takeMove, hcfg, hagenda, hidle]

theorem issue_of_decodeHost {w : HostWord} {i : Instr} (h : decodeHost w = .ok i) (s : State) :
    issue w s = absorbRefusal s (exec i (s.latch w)) := by
  simp [issue, h]

/-- Idle, every host operation but a reserved code answers a next state. -/
theorem exec_next_of_idle {i : Instr} {s : State} (hhost : isFrameInstr i = false) (hidle : s.opstate = .idle)
    (hzero : i ≠ .reservedOpZero) (hhigh : ∀ code, i ≠ .reservedOpHigh code) : ∃ t, exec i s = .next t := by
  cases i with
  | reservedOpZero => exact absurd rfl hzero
  | reservedOpHigh code => exact absurd rfl (hhigh code)
  | frameDefer8Low | frameWrite16Low | frameDefer8High | frameWrite16High | frameCmdSrc | frameCmdCtrl => cases hhost
  | encPoll | btnClassify | fmVfo | fmTword | serXfer16 | ddsWriteTw | ddsInit | tuneSetfreq =>
    exact ⟨_, whenIdle_of_idle hidle _⟩

theorem exec_of_reserved {i : Instr} (h : i = .reservedOpZero ∨ ∃ code, i = .reservedOpHigh code) (s : State) :
    exec i s = .refused .reservedOp := by
  obtain rfl | ⟨code, rfl⟩ := h <;> rfl

/-- Settles O6: the step issues the word; a next state is passed on, a refusal is recorded. -/
theorem stepRunsTheDecodedOperation : Obligations.StepRunsTheDecodedOperation := by
  intro s w rest i hcfg hidle hagenda hdec
  have hstep : step s = absorbRefusal (s.withAgenda rest) (exec i ((s.withAgenda rest).latch w)) := by
    rw [step_of_host hcfg hidle hagenda, issue_of_decodeHost hdec]
  refine ⟨fun hzero hhigh => ?_, fun hreserved => ⟨exec_of_reserved hreserved _, ?_⟩⟩
  · obtain ⟨t, ht⟩ := exec_next_of_idle (s := (s.withAgenda rest).latch w) (decodeHost_not_frame hdec) hidle hzero hhigh
    rw [hstep, ht, absorbRefusal_next]
    exact ht.symm
  · rw [hstep, exec_of_reserved hreserved, absorbRefusal_reservedOp]
    rfl

/-! ### The latched edge -/

theorem step_of_env {s : State} {a b n : Option Bool} {rest : List Move} (hcfg : configOk s.cfg = true)
    (hagenda : s.agenda = .env a b n :: rest) : step s = .next ((s.withAgenda rest).envStep a b n) := by
  simp [step, guarded, nextMove, takeMove, hcfg, hagenda]

/-- A rising edge under the mask sets `PEND` and leaves `ACC` (R101). -/
theorem envStep_of_masked_edge {a b n : Option Bool} {s : State} (hlast : s.encALast = false)
    (hrise : a.getD s.encA = true) (hmask : s.imask = true) :
    s.envStep a b n = { (s.setInputs a b n).noteEncA with pend := true } := by
  obtain ⟨-, -, hopen, -⟩ | ⟨-, -, -, h⟩ | ⟨hsteady, -⟩ := envStep_cases a b n s
  · simp [hmask] at hopen
  · exact h
  · simp [hlast, hrise] at hsteady

/-- Settles O33, by the environment's step at a rising edge under the mask. -/
theorem maskedEdgeIsLatchedOnce : Obligations.MaskedEdgeIsLatchedOnce := by
  intro s b n rest hcfg hagenda hlast hmask
  rw [step_of_env hcfg hagenda, envStep_of_masked_edge (s := s.withAgenda rest) hlast rfl hmask]
  rfl

/-! ### The state after reset -/

/-- The reset state meets the invariant: no frame, no classification and no result, every line at its idle level. -/
theorem resetOf_consistent (c : Config) (a b n : Bool) (draw : Nat) (ms : List Move) :
    Consistent (State.resetOf c a b n draw ms) where
  mask := rfl
  pending := nofun
  saved := nofun
  frameStart := rfl
  clock := rfl
  classifier := ⟨fun _ => nofun, fun _ => rfl⟩
  budget := nofun
  position := nofun
  shifting := nofun
  noResult hbusy := absurd rfl hbusy
  edge := rfl
  configuration := rfl

/-- Settles O48: `State.reset` is the reset state of the example configuration. -/
theorem resetIsConsistent : Obligations.ResetIsConsistent :=
  ⟨resetOf_consistent Config.pEx false false true 0 [], resetOf_consistent⟩

/-- `COEF[k]` in numbers (R142). -/
theorem coef_toNat (c : Config) (k : Nat) : (coef c k).toNat = ratioK c * 10 ^ k % 2 ^ 32 := BitVec.toNat_ofNat _ _

/-- Settles O49, field by field of the reset state. -/
theorem resetValues : Obligations.ResetValues := by
  rintro c a b n draw ms s rfl
  exact ⟨rfl, rfl, rfl, rfl, rfl, rfl, rfl, rfl, rfl, rfl, rfl, rfl, rfl, rfl, rfl, coef_toNat c⟩

end Sys2Proof.Machine
end

section
/-! SUPPORT. The family of spec/20_memory.md: what a step inside a frame leaves of `ACC` (R57, R104). -/

namespace Sys2Proof.Machine

/-! ### `ACC` within a frame -/

/-- Under the mask an environment step at most latches an edge (R101). -/
theorem envStep_acc_of_masked (a b n : Option Bool) {s : State} (hmask : s.imask = true) :
    (s.envStep a b n).acc = s.acc := by
  obtain ⟨-, -, hopen, -⟩ | ⟨-, -, -, h⟩ | ⟨-, h⟩ := envStep_cases a b n s
  · simp [hmask] at hopen
  · simp [h]
  · simp [h]

/-- After step F_END no frame is in progress: the next frame has yet to start, or the sequence is over (R161). -/
theorem inFrame_afterFrame (t : Transfer) (k : Nat) (s : State) : inFrame (s.afterFrame t k).opstate = false := by
  obtain ⟨-, h⟩ | ⟨-, ⟨_, -, h⟩ | ⟨_, -, h⟩ | ⟨-, h⟩ | ⟨_, _, -, h⟩⟩ := afterFrame_cases t k s <;> rw [h] <;> rfl

/-- Settles O59: of the writers of `ACC`, an edge finds the mask set, a frame's end leaves the frame, a poll needs an
idle machine, and a reset is excluded. -/
theorem accumulatorHeldWithinAFrame : Obligations.AccumulatorHeldWithinAFrame := by
  intro s t hcons hstep hbefore hafter hreset
  obtain ⟨ms, heffect⟩ := step_effect hstep
  cases heffect with
  | setsInputs =>
    have hmask : s.imask = true := hcons.mask.trans hbefore
    exact envStep_acc_of_masked _ _ _ (s := s.withAgenda ms) hmask
  | endsFrame => simp [inFrame_afterFrame] at hafter
  | polls htakes => simp [htakes.idle, inFrame] at hbefore
  | resets hagenda => exact absurd (by simp [hagenda]) hreset
  | _ => simp

end Sys2Proof.Machine
end

section
/-! SUPPORT. The family of spec/30_encoding.md: the host decoder row by row (R60 to R62, R67), its refusals (R69, R205),
the parts of a frame (R63), and the frames under a configuration that tells their kinds apart (R64, R65). -/

namespace Sys2Proof

/-! ### Operand fields -/

/-- `OPB[15:1] = 0`, in numbers (R62). -/
theorem opbReservedZero_iff (opb : Half) : opbReservedZero opb = true ↔ opb.toNat < 2 := by
  simp only [opbReservedZero, beq_iff_eq, ← BitVec.toNat_inj, BitVec.extractLsb'_toNat, BitVec.ofNat_eq_ofNat,
    BitVec.toNat_ofNat, Nat.shiftRight_eq_div_pow]
  omega

/-- `OPA[31:16] = 0`, in numbers (R62). -/
theorem opaHighZero_iff (opa : Word) : opaHighZero opa = true ↔ opa.toNat < 2 ^ 16 := by
  simp only [opaHighZero, beq_iff_eq, ← BitVec.toNat_inj, BitVec.extractLsb'_toNat, BitVec.ofNat_eq_ofNat,
    BitVec.toNat_ofNat, Nat.shiftRight_eq_div_pow]
  omega

/-- With no reserved bit set, `OPB` is 1 for the upper sideband and 0 for the lower (R67). -/
theorem usbOf_of_lt {opb : Half} (h : opb.toNat < 2) : usbOf opb = decide (opb.toNat = 1) := by
  simp only [usbOf, ← BitVec.testBit_toNat, Nat.testBit_zero]
  congr 2
  omega

theorem opbOfUsb_lt (usb : Bool) : (opbOfUsb usb).toNat < 2 := by
  cases usb <;> decide

@[simp] theorem usbOf_opbOfUsb (usb : Bool) : usbOf (opbOfUsb usb) = usb := by
  cases usb <;> rfl

/-! ### The host decoder -/

@[simp] theorem decodeHost_reservedOpZero (opa : Word) (opb : Half) :
    decodeHost ⟨0x0, opa, opb⟩ = .ok .reservedOpZero := rfl
@[simp] theorem decodeHost_encPoll (opa : Word) (opb : Half) : decodeHost ⟨0x1, opa, opb⟩ = .ok .encPoll := rfl
@[simp] theorem decodeHost_btnClassify (opa : Word) (opb : Half) :
    decodeHost ⟨0x2, opa, opb⟩ = .ok (.btnClassify opb) := rfl
@[simp] theorem decodeHost_fmTword (opa : Word) (opb : Half) : decodeHost ⟨0x4, opa, opb⟩ = .ok (.fmTword opa) := rfl
@[simp] theorem decodeHost_ddsWriteTw (opa : Word) (opb : Half) :
    decodeHost ⟨0x6, opa, opb⟩ = .ok (.ddsWriteTw opa) := rfl
@[simp] theorem decodeHost_ddsInit (opa : Word) (opb : Half) : decodeHost ⟨0x7, opa, opb⟩ = .ok .ddsInit := rfl

theorem decodeHost_fmVfo (opa : Word) {opb : Half} (h : opb.toNat < 2) :
    decodeHost ⟨0x3, opa, opb⟩ = .ok (.fmVfo opa (usbOf opb)) :=
  if_pos ((opbReservedZero_iff opb).2 h)

theorem decodeHost_serXfer16 {opa : Word} (opb : Half) (h : opa.toNat < 2 ^ 16) :
    decodeHost ⟨0x5, opa, opb⟩ = .ok (.serXfer16 (BitVec.ofNat 16 opa.toNat)) :=
  if_pos ((opaHighZero_iff opa).2 h)

theorem decodeHost_tuneSetfreq (opa : Word) {opb : Half} (h : opb.toNat < 2) :
    decodeHost ⟨0x8, opa, opb⟩ = .ok (.tuneSetfreq opa (usbOf opb)) :=
  if_pos ((opbReservedZero_iff opb).2 h)

theorem decodeHost_reservedOpHigh {code : BitVec 4} (opa : Word) (opb : Half) (h : 9 ≤ code.toNat) :
    decodeHost ⟨code, opa, opb⟩ = .ok (.reservedOpHigh code) := by
  unfold decodeHost
  split
  case h_10 => rfl
  all_goals next hop => exact absurd (h.trans_eq hop) (by decide)

/-- A must-be-zero operand bit of the word is 1 (R62). -/
def HostWord.SetsReservedBit (w : HostWord) : Prop :=
  ((w.op = 0x3 ∨ w.op = 0x8) ∧ 2 ≤ w.opb.toNat) ∨ (w.op = 0x5 ∧ 2 ^ 16 ≤ w.opa.toNat)

theorem HostWord.setsReservedBit_iff (w : HostWord) : w.SetsReservedBit ↔
    ((w.op.toNat = 3 ∨ w.op.toNat = 8) ∧ 2 ≤ w.opb.toNat) ∨ (w.op.toNat = 5 ∧ 2 ^ 16 ≤ w.opa.toNat) := by
  simp [SetsReservedBit, ← BitVec.toNat_inj]

/-- A word is refused for a reserved bit, or it sets none and decodes to a well-formed instruction (R62, R69). -/
theorem decodeHost_cases (w : HostWord) :
    (w.SetsReservedBit ∧ decodeHost w = .error .reservedOperandBits) ∨
      (¬ w.SetsReservedBit ∧ ∃ i, decodeHost w = .ok i ∧ i.wf = true) := by
  rw [w.setsReservedBit_iff]
  unfold decodeHost
  split
  case h_4 hop | h_9 hop =>
    split
    · next hzero =>
      have hlow := (opbReservedZero_iff w.opb).1 hzero
      exact .inr ⟨by omega, _, rfl, rfl⟩
    · next hset =>
      have hhigh := mt (opbReservedZero_iff w.opb).2 hset
      exact .inl ⟨by omega, rfl⟩
  case h_6 hop =>
    split
    · next hzero =>
      have hlow := (opaHighZero_iff w.opa).1 hzero
      exact .inr ⟨by omega, _, rfl, rfl⟩
    · next hset =>
      have hhigh := mt (opaHighZero_iff w.opa).2 hset
      exact .inl ⟨by omega, rfl⟩
  case h_10 =>
    have hcode : 9 ≤ w.op.toNat := by
      simp only [imp_false] at *
      omega
    exact .inr ⟨by omega, _, rfl, decide_eq_true hcode⟩
  all_goals exact .inr ⟨by omega, _, rfl, rfl⟩

theorem decodeHost_of_setsReservedBit {w : HostWord} (h : w.SetsReservedBit) :
    decodeHost w = .error .reservedOperandBits := by
  obtain ⟨-, hrefused⟩ | ⟨hclear, -⟩ := decodeHost_cases w
  · exact hrefused
  · exact absurd h hclear

/-- Settles O3, row by row of the table. -/
theorem hostDecodingFollowsTheTable : Obligations.HostDecodingFollowsTheTable := by
  intro opa opb
  refine ⟨decodeHost_encPoll _ _, decodeHost_btnClassify _ _, fun hopb => ?_, decodeHost_fmTword _ _,
    decodeHost_serXfer16 opb, decodeHost_ddsWriteTw _ _, decodeHost_ddsInit _ _, fun hopb => ?_,
    decodeHost_reservedOpZero _ _, fun _ => decodeHost_reservedOpHigh opa opb⟩
  · rw [decodeHost_fmVfo opa hopb, usbOf_of_lt hopb]
  · rw [decodeHost_tuneSetfreq opa hopb, usbOf_of_lt hopb]

/-- Settles O4: the two cases of a host word exclude each other. -/
theorem hostDecodingRefusesOnlyReservedBits : Obligations.HostDecodingRefusesOnlyReservedBits := by
  intro w
  refine ⟨⟨fun hrefused => ?_, decodeHost_of_setsReservedBit⟩, fun haccepted => ?_⟩
  · obtain ⟨hset, -⟩ | ⟨-, i, hdecoded, -⟩ := decodeHost_cases w
    · exact hset
    · cases hdecoded.symm.trans hrefused
  · obtain ⟨-, hrefused⟩ | ⟨-, hdecoded⟩ := decodeHost_cases w
    · exact absurd hrefused haccepted
    · exact hdecoded

/-! ### The parts of a frame -/

@[simp] theorem frameTag_tagged (tag d : Byte) : frameTag (tagged tag d) = tag :=
  BitVec.extractLsb'_append_eq_left

@[simp] theorem frameData_tagged (tag d : Byte) : frameData (tagged tag d) = d :=
  BitVec.extractLsb'_append_eq_right

/-- No bit of a frame is outside its tag and its data byte (R63). -/
theorem tagged_frameTag_frameData (f : Half) : tagged (frameTag f) (frameData f) = f :=
  BitVec.extractLsb'_append_extractLsb' (w := 8) (len := 8)

theorem tagged_of_frameTag {tag : Byte} {f : Half} (h : frameTag f = tag) : tagged tag (frameData f) = f :=
  h ▸ tagged_frameTag_frameData f

/-- Settles O2, one case for each frame kind: a tagged frame is put together from its two bytes, a command frame is the
configured word. -/
theorem decodedFrameEncodesBack : Obligations.DecodedFrameEncodesBack := by
  intro c f i h
  unfold decodeFrame at h
  split_ifs at h with htag0 htag1 htag2 htag3 hsrc hctrl <;> cases h
  · exact congrArg Encoded.frame (tagged_of_frameTag htag0)
  · exact congrArg Encoded.frame (tagged_of_frameTag htag1)
  · exact congrArg Encoded.frame (tagged_of_frameTag htag2)
  · exact congrArg Encoded.frame (tagged_of_frameTag htag3)
  · exact congrArg Encoded.frame hsrc.symm
  · exact congrArg Encoded.frame hctrl.symm

/-! ### Frames of a configuration that tells their kinds apart -/

/-- What `framesApart` says, each part in the order in which `decodeFrame` asks (log entry 6). -/
structure KindsApart (c : Config) : Prop where
  tag1_ne_tag0 : c.tag1 ≠ c.tag0
  tag2_ne_tag0 : c.tag2 ≠ c.tag0
  tag2_ne_tag1 : c.tag2 ≠ c.tag1
  tag3_ne_tag0 : c.tag3 ≠ c.tag0
  tag3_ne_tag1 : c.tag3 ≠ c.tag1
  tag3_ne_tag2 : c.tag3 ≠ c.tag2
  cmdSrc_ne_tag0 : frameTag c.cmdSrc ≠ c.tag0
  cmdSrc_ne_tag1 : frameTag c.cmdSrc ≠ c.tag1
  cmdSrc_ne_tag2 : frameTag c.cmdSrc ≠ c.tag2
  cmdSrc_ne_tag3 : frameTag c.cmdSrc ≠ c.tag3
  cmdCtrl_ne_tag0 : frameTag c.cmdCtrl ≠ c.tag0
  cmdCtrl_ne_tag1 : frameTag c.cmdCtrl ≠ c.tag1
  cmdCtrl_ne_tag2 : frameTag c.cmdCtrl ≠ c.tag2
  cmdCtrl_ne_tag3 : frameTag c.cmdCtrl ≠ c.tag3
  cmdCtrl_ne_cmdSrc : c.cmdCtrl ≠ c.cmdSrc

theorem kindsApart_of_framesApart {c : Config} (h : framesApart c = true) : KindsApart c := by
  simp only [framesApart, Bool.and_eq_true, decide_eq_true_eq] at h
  constructor <;> tauto

theorem decodeFrame_tag0 (c : Config) (d : Byte) : decodeFrame c (tagged c.tag0 d) = .ok (.frameDefer8Low d) := by
  simp [decodeFrame]

section
variable {c : Config} (h : KindsApart c)
include h

theorem KindsApart.decodeFrame_tag1 (d : Byte) : decodeFrame c (tagged c.tag1 d) = .ok (.frameWrite16Low d) := by
  simp [decodeFrame, h.tag1_ne_tag0]

theorem KindsApart.decodeFrame_tag2 (d : Byte) : decodeFrame c (tagged c.tag2 d) = .ok (.frameDefer8High d) := by
  simp [decodeFrame, h.tag2_ne_tag0, h.tag2_ne_tag1]

theorem KindsApart.decodeFrame_tag3 (d : Byte) : decodeFrame c (tagged c.tag3 d) = .ok (.frameWrite16High d) := by
  simp [decodeFrame, h.tag3_ne_tag0, h.tag3_ne_tag1, h.tag3_ne_tag2]

theorem KindsApart.decodeFrame_cmdSrc : decodeFrame c c.cmdSrc = .ok .frameCmdSrc := by
  simp [decodeFrame, h.cmdSrc_ne_tag0, h.cmdSrc_ne_tag1, h.cmdSrc_ne_tag2, h.cmdSrc_ne_tag3]

theorem KindsApart.decodeFrame_cmdCtrl : decodeFrame c c.cmdCtrl = .ok .frameCmdCtrl := by
  simp [decodeFrame, h.cmdCtrl_ne_tag0, h.cmdCtrl_ne_tag1, h.cmdCtrl_ne_tag2, h.cmdCtrl_ne_tag3, h.cmdCtrl_ne_cmdSrc]

end

/-- Settles O1: each instruction's word is a row of the host table or a frame of one kind. -/
theorem decodeOfEncodeIsIdentity : Obligations.DecodeOfEncodeIsIdentity := by
  intro c i happart hwf
  have hkinds := kindsApart_of_framesApart happart
  cases i with
  | encPoll => exact decodeHost_encPoll 0 0
  | btnClassify budget => exact decodeHost_btnClassify 0 budget
  | fmVfo f usb =>
    calc decodeHost ⟨0x3, f, opbOfUsb usb⟩
      _ = .ok (.fmVfo f (usbOf (opbOfUsb usb))) := decodeHost_fmVfo f (opbOfUsb_lt usb)
      _ = .ok (.fmVfo f usb) := by rw [usbOf_opbOfUsb]
  | fmTword v => exact decodeHost_fmTword v 0
  | serXfer16 frame =>
    have hopa : (frame.zeroExtend 32).toNat = frame.toNat := BitVec.toNat_setWidth_of_le (by decide)
    calc decodeHost ⟨0x5, frame.zeroExtend 32, 0⟩
      _ = .ok (.serXfer16 (BitVec.ofNat 16 (frame.zeroExtend 32).toNat)) :=
        decodeHost_serXfer16 0 (hopa ▸ frame.isLt)
      _ = .ok (.serXfer16 frame) := by rw [hopa, BitVec.ofNat_toNat, BitVec.setWidth_eq]
  | ddsWriteTw word => exact decodeHost_ddsWriteTw word 0
  | ddsInit => exact decodeHost_ddsInit 0 0
  | tuneSetfreq f usb =>
    calc decodeHost ⟨0x8, f, opbOfUsb usb⟩
      _ = .ok (.tuneSetfreq f (usbOf (opbOfUsb usb))) := decodeHost_tuneSetfreq f (opbOfUsb_lt usb)
      _ = .ok (.tuneSetfreq f usb) := by rw [usbOf_opbOfUsb]
  | reservedOpZero => exact decodeHost_reservedOpZero 0 0
  | reservedOpHigh code => exact decodeHost_reservedOpHigh 0 0 (of_decide_eq_true hwf)
  | frameDefer8Low d => exact decodeFrame_tag0 c d
  | frameWrite16Low d => exact hkinds.decodeFrame_tag1 d
  | frameDefer8High d => exact hkinds.decodeFrame_tag2 d
  | frameWrite16High d => exact hkinds.decodeFrame_tag3 d
  | frameCmdSrc => exact hkinds.decodeFrame_cmdSrc
  | frameCmdCtrl => exact hkinds.decodeFrame_cmdCtrl

/-- Settles O5: six closed words, which the decoders evaluate. -/
theorem writtenOutWordsDecode : Obligations.WrittenOutWordsDecode := by
  unfold Obligations.WrittenOutWordsDecode
  decide

end Sys2Proof

namespace Sys2Proof.Machine

/-! ### Refusals in the machine -/

/-- Settles O8, by the meanings of the two rows of reserved codes. -/
theorem reservedCodesAreRefused : Obligations.ReservedCodesAreRefused :=
  fun s => ⟨exec_of_reserved (.inl rfl) s, fun code => exec_of_reserved (.inr ⟨code, rfl⟩) s⟩

theorem issue_of_setsReservedBit {w : HostWord} (h : w.SetsReservedBit) (s : State) :
    issue w s = .next s.recordReservedBits := by
  simp [issue, decodeHost_of_setsReservedBit h]

/-- Settles O9: the step issues the word, and the decoder refuses it before any register is written. -/
theorem reservedOperandBitsAreRefused : Obligations.ReservedOperandBitsAreRefused := by
  intro s w rest hcfg hidle hagenda hset
  calc step s
    _ = issue w (s.withAgenda rest) := step_of_host hcfg hidle hagenda
    _ = .next (s.withAgenda rest).recordReservedBits := issue_of_setsReservedBit hset _

end Sys2Proof.Machine
end

section
/-! SUPPORT. The family of spec/40_encoder_accumulator.md: ENC_POLL (R103), the edges and the mask (R100 to R102), the
invariant of R104 over every step, and the counts of R105 and R106. -/

namespace Sys2Proof.Machine

/-! ### ENC_POLL -/

/-- Settles O12: an encoded host operation is one of the eight or a reserved code, and each of the eight asks whether
the machine is idle. -/
theorem busyMeaningsAreRefused : Obligations.BusyMeaningsAreRefused := by
  rintro s i hbusy ⟨c, w, hencode⟩ hzero hhigh
  cases i with
  | encPoll | btnClassify | fmVfo | fmTword | serXfer16 | ddsWriteTw | ddsInit | tuneSetfreq =>
    exact whenIdle_of_busy hbusy _
  | reservedOpZero => exact absurd rfl hzero
  | reservedOpHigh code => exact absurd rfl (hhigh code)
  | frameDefer8Low | frameWrite16Low | frameDefer8High | frameWrite16High | frameCmdSrc | frameCmdCtrl => cases hencode

/-- The one step of ENC_POLL from an idle machine (R103, R68). -/
theorem poll_of_idle {s : State} (hidle : s.opstate = .idle) :
    s.poll = { s with acc := 0, res := s.acc.signExtend 32, resValid := true } := by
  calc s.poll
    _ = { s with acc := 0, res := s.acc.signExtend 32, resValid := true, opstate := .idle } := rfl
    _ = { s with acc := 0, res := s.acc.signExtend 32, resValid := true } := by rw [hidle]

/-- Settles O13: sign extension is the wrapped signed value. -/
theorem encPollResult : Obligations.EncPollResult := by
  intro s hidle
  calc exec .encPoll s
    _ = .next s.poll := whenIdle_of_idle hidle _
    _ = .next { s with acc := 0, res := s.acc.signExtend 32, resValid := true } := by rw [poll_of_idle hidle]

/-! ### Edges with the mask open, and other level changes -/

/-- The edge handler's wrapping arithmetic on `s16` is addition of bit vectors (R22, R101). -/
theorem swrap16_asS16_add (h : Half) (d : Int) : swrap16 (asS16 h + d) = h + BitVec.ofInt 16 d := by
  simp [swrap16, asS16, BitVec.ofInt_add]

theorem applyEdge_eq (s : State) : s.applyEdge = { s with acc := if s.encB then s.acc - 1 else s.acc + 1 } := by
  have hup : swrap16 (asS16 s.acc + 1) = s.acc + 1 := swrap16_asS16_add s.acc 1
  have hdown : swrap16 (asS16 s.acc - 1) = s.acc - 1 := by
    rw [sub_eq_add_neg, swrap16_asS16_add, sub_eq_add_neg]
    rfl
  rw [State.applyEdge, hup, hdown]

theorem envStep_of_open_edge {a b n : Option Bool} {s : State} (hlast : s.encALast = false)
    (hrise : a.getD s.encA = true) (hopen : s.imask = false) :
    s.envStep a b n = (s.setInputs a b n).applyEdge.noteEncA := by
  obtain ⟨-, -, -, h⟩ | ⟨-, -, hmask, -⟩ | ⟨hsteady, -⟩ := envStep_cases a b n s
  · exact h
  · simp [hopen] at hmask
  · simp [hlast, hrise] at hsteady

theorem envStep_of_no_edge {a b n : Option Bool} {s : State} (hsteady : s.encALast = true ∨ a.getD s.encA = false) :
    s.envStep a b n = (s.setInputs a b n).noteEncA := by
  obtain ⟨hlast, hrise, -⟩ | ⟨hlast, hrise, -⟩ | ⟨-, h⟩ := envStep_cases a b n s
  · simp [hlast, hrise] at hsteady
  · simp [hlast, hrise] at hsteady
  · exact h

/-- Settles O32, by the environment's step at a rising edge with the mask open. -/
theorem openEdgeCountsAtOnce : Obligations.OpenEdgeCountsAtOnce := by
  intro s b n rest hcfg hagenda hlast hopen
  rw [step_of_env hcfg hagenda, envStep_of_open_edge (s := s.withAgenda rest) hlast rfl hopen, applyEdge_eq]
  rfl

/-- Settles O34, by the environment's step without a rising edge. -/
theorem otherLevelChangesCountNothing : Obligations.OtherLevelChangesCountNothing := by
  intro s a b n rest hcfg hagenda hsteady
  rw [step_of_env hcfg hagenda, envStep_of_no_edge (s := s.withAgenda rest) hsteady]
  rfl


/-! ### The end of a frame and the pending edge -/

@[simp] theorem State.afterFrame_lines (t : Transfer) (k : Nat) (s : State) :
    (s.afterFrame t k).imask = s.imask ∧ (s.afterFrame t k).pend = s.pend ∧ (s.afterFrame t k).fsyncN = s.fsyncN
      ∧ (s.afterFrame t k).acc = s.acc := by
  obtain ⟨-, h⟩ | ⟨-, ⟨_, -, h⟩ | ⟨_, -, h⟩ | ⟨-, h⟩ | ⟨_, _, -, h⟩⟩ := afterFrame_cases t k s <;> simp [h]

theorem step_of_frameEnd {s : State} {tr : Transfer} {k : Nat} {rest : List Move} (hcfg : configOk s.cfg = true)
    (hop : s.opstate = .sending tr (.fEnd k)) (hagenda : s.agenda = .block :: rest) :
    step s = endFrame tr k (s.withAgenda rest) := by
  simp [step, guarded, nextMove, takeMove, blockStep, sendStep, hcfg, hagenda, hop]

/-- With an open mask saved, F_END opens the mask, and EDGE_SERVICE applies the pending edge (R102, R161). -/
theorem endFramePins_of_saved_open {s : State} (hsaved : s.imaskSaved = false) :
    s.endFramePins.imask = false ∧ s.endFramePins.pend = false ∧ s.endFramePins.fsyncN = true
      ∧ s.endFramePins.acc = if s.pend then (if s.encB then s.acc - 1 else s.acc + 1) else s.acc := by
  have hpins : s.endFramePins = (s.drive .fsyncN true).setImask false := by simp [State.endFramePins, hsaved]
  rw [hpins, setImask_false_acc, applyEdge_eq]
  simp

/-- Settles O35: the service is that of the pins' step; neither the chip reader nor what follows the frame reaches the
mask, the latch or `ACC`. -/
theorem pendingEdgeServicedAtFrameEnd : Obligations.PendingEdgeServicedAtFrameEnd := by
  intro s tr k rest hcfg hop hagenda hsaved
  obtain ⟨st, fr, d, hend⟩ := endFrame_next tr k (s.withAgenda rest)
  obtain ⟨hmask, hpend, hfsync, hacc⟩ := endFramePins_of_saved_open (s := s.withAgenda rest) hsaved
  refine ⟨_, (step_of_frameEnd hcfg hop hagenda).trans hend, ?_⟩
  simp only [State.afterFrame_lines, State.afterFrame_trace, State.endFramePins_trace]
  exact ⟨hmask, hpend, hfsync, rfl, hacc⟩

/-! ### The invariant outside a frame -/

/-- What `Consistent` says of the mask, the latch, the lines and the configuration while no frame is in progress:
its part that does not depend on `OPSTATE` there (R104, R160). -/
structure AtRest (s : State) : Prop where
  maskOpen : s.imask = false
  nonePending : s.pend = false
  fsyncHigh : s.fsyncN = true
  clockHigh : s.sclk = true
  edge : s.encALast = s.encA
  configuration : s.refusals.badConfiguration = !configOk s.cfg

theorem clockIsLow_of_not_inFrame {o : OpState} (hout : inFrame o = false) : clockIsLow o = false := by
  cases o with
  | idle | classifying | relaying => rfl
  | sending t p =>
    cases p with
    | gap k => rfl
    | data | clkLow | clkHigh | fEnd => cases hout

theorem Consistent.atRest {s : State} (h : Consistent s) (hout : inFrame s.opstate = false) : AtRest s where
  maskOpen := h.mask.trans hout
  nonePending := by simpa [h.mask, hout] using h.pending
  fsyncHigh := by simp [h.frameStart, hout]
  clockHigh := by simp [h.clock, clockIsLow_of_not_inFrame hout]
  edge := h.edge
  configuration := h.configuration

theorem Consistent.bstate_bIdle {s : State} (h : Consistent s) (hop : s.opstate ≠ .classifying) :
    s.bstate = .bIdle :=
  h.classifier.2 hop

theorem Consistent.opstate_classifying {s : State} (h : Consistent s) (hb : s.bstate ≠ .bIdle) :
    s.opstate = .classifying :=
  not_not.1 fun hop => hb (h.bstate_bIdle hop)

/-- A block at rest is consistent when no classification runs and what it does next, if anything, is outside a frame. -/
theorem AtRest.consistent {s : State} (h : AtRest s) (hout : inFrame s.opstate = false) (hb : s.bstate = .bIdle)
    (hop : s.opstate ≠ .classifying) (hposition : ∀ t p, s.opstate = .sending t p → p.frameNo ≤ lastFrame t)
    (hresult : s.opstate ≠ .idle → s.resValid = false) : Consistent s where
  mask := h.maskOpen.trans hout.symm
  pending hpend := by simp [h.nonePending] at hpend
  saved hframe := by simp [hout] at hframe
  frameStart := by simp [h.fsyncHigh, hout]
  clock := by simp [h.clockHigh, clockIsLow_of_not_inFrame hout]
  classifier := iff_of_true hb hop
  budget hwait := by simp [hb] at hwait
  position := hposition
  shifting _ _ _ hframe := by simp [hout] at hframe
  noResult := hresult
  edge := h.edge
  configuration := h.configuration

theorem AtRest.consistent_of_idle {s : State} (h : AtRest s) (hidle : s.opstate = .idle) (hb : s.bstate = .bIdle) :
    Consistent s :=
  h.consistent (by simp [hidle, inFrame]) hb (by simp [hidle]) (by simp [hidle]) (by simp [hidle])

theorem AtRest.consistent_of_classifying {s : State} (h : AtRest s) (hop : s.opstate = .classifying)
    (hb : s.bstate ≠ .bIdle) (hbudget : s.bstate = .bWait → s.rem ≠ 0) (hresult : s.resValid = false) :
    Consistent s where
  mask := by simp [h.maskOpen, hop, inFrame]
  pending hpend := by simp [h.nonePending] at hpend
  saved hframe := by simp [hop, inFrame] at hframe
  frameStart := by simp [h.fsyncHigh, hop, inFrame]
  clock := by simp [h.clockHigh, hop, clockIsLow]
  classifier := iff_of_false hb (not_not.2 hop)
  budget := hbudget
  position := by simp [hop]
  shifting := by simp [hop]
  noResult _ := hresult
  edge := h.edge
  configuration := h.configuration

/-! ### The classifier's steps keep the invariant -/

/-- A sample ends the classification, starts the settle delay, or leaves a budget to wait on (R121). -/
theorem AtRest.evaluate_consistent {s : State} (h : AtRest s) (hop : s.opstate = .classifying)
    (hwait : s.bstate = .bWait) (hresult : s.resValid = false) : Consistent s.evaluate := by
  obtain ⟨-, heq⟩ | ⟨-, -, heq⟩ | ⟨-, -, -, heq⟩ | ⟨-, -, hrem, heq⟩ := evaluate_cases s <;> rw [heq]
  · exact AtRest.consistent_of_classifying { h with } hop nofun nofun hresult
  · exact AtRest.consistent_of_idle { h with } rfl rfl
  · exact AtRest.consistent_of_idle { h with } rfl rfl
  · exact h.consistent_of_classifying hop (by simp [hwait]) (fun _ => hrem) hresult

theorem Consistent.classify {s : State} (h : Consistent s) (hidle : s.opstate = .idle) (b : Half) :
    Consistent (s.classify b) := by
  have hrest : AtRest s := h.atRest (by simp [hidle, inFrame])
  obtain ⟨-, heq⟩ | ⟨-, heq⟩ := classify_cases b s <;> rw [heq]
  · exact AtRest.consistent_of_idle { hrest with } rfl rfl
  · exact AtRest.evaluate_consistent { hrest with } rfl rfl rfl

theorem Consistent.timerStep {s : State} (h : Consistent s) : Consistent s.timerStep := by
  obtain ⟨-, heq⟩ | ⟨hwait, heq⟩ | ⟨hsettle, heq⟩ := timerStep_cases s <;> rw [heq]
  · exact h
  · have hop : s.opstate = .classifying := h.opstate_classifying (by simp [hwait])
    have hrest : AtRest s := h.atRest (by simp [hop, inFrame])
    exact AtRest.evaluate_consistent { hrest with } hop hwait (h.noResult (by simp [hop]))
  · have hop : s.opstate = .classifying := h.opstate_classifying (by simp [hsettle])
    have hrest : AtRest s := h.atRest (by simp [hop, inFrame])
    exact AtRest.consistent_of_idle { hrest with } rfl rfl

/-! ### The frame's steps keep the invariant -/

/-- Step F0 (R161). -/
theorem AtRest.startFrame_consistent {s : State} {t : Transfer} {k : Nat} (h : AtRest s) (hb : s.bstate = .bIdle)
    (hresult : s.resValid = false) (hk : k ≤ lastFrame t) : Consistent (s.startFrame t k) := by
  rw [startFrame_eq]
  exact {
    mask := rfl
    pending := fun _ => rfl
    saved := fun _ => h.maskOpen
    frameStart := rfl
    clock := h.clockHigh
    classifier := iff_of_true hb nofun
    budget := by simp [hb]
    position := by rintro _ _ ⟨⟩; exact hk
    shifting := by rintro _ _ ⟨⟩ -; rfl
    noResult := fun _ => hresult
    edge := h.edge
    configuration := h.configuration }

/-- A step from one phase of a frame to another of the same frame, which sets the clock's level to the new phase's. -/
theorem Consistent.withinFrame {s : State} {t : Transfer} {p q : Phase} (h : Consistent s)
    (hop : s.opstate = .sending t p) (hp : inFrame (.sending t p) = true) (hq : inFrame (.sending t q) = true)
    (hno : q.frameNo = p.frameNo) :
    Consistent { s with opstate := .sending t q, sclk := !clockIsLow (.sending t q) } where
  mask := by simp [h.mask, hop, hp, hq]
  pending := h.pending
  saved _ := h.saved (by rw [hop, hp])
  frameStart := by simp [h.frameStart, hop, hp, hq]
  clock := rfl
  classifier := iff_of_true (h.bstate_bIdle (by simp [hop])) nofun
  budget := h.budget
  position := by rintro _ _ ⟨⟩; exact hno ▸ h.position t p hop
  shifting := by rintro _ _ ⟨⟩ -; exact hno ▸ h.shifting t p hop (by rw [hop, hp])
  noResult _ := h.noResult (by simp [hop])
  edge := h.edge
  configuration := h.configuration

theorem Consistent.dataStep {s : State} {t : Transfer} {k : Nat} {i : BitVec 4} (h : Consistent s)
    (hop : s.opstate = .sending t (.data k i)) : Consistent (s.dataStep t k i) :=
  have hclock : s.sclk = true := by simp [h.clock, hop, clockIsLow]
  { h.withinFrame (q := .clkLow k) hop rfl rfl rfl with clock := hclock }

theorem Consistent.clkLowStep {s : State} {t : Transfer} {k : Nat} (h : Consistent s)
    (hop : s.opstate = .sending t (.clkLow k)) : Consistent (s.clkLowStep t k) :=
  { h.withinFrame (q := .clkHigh k) hop rfl rfl rfl with }

theorem Consistent.clkHighStep {s : State} {t : Transfer} {k : Nat} (h : Consistent s)
    (hop : s.opstate = .sending t (.clkHigh k)) : Consistent (s.clkHighStep t k) := by
  unfold State.clkHighStep phaseAfterBit
  split
  · exact { h.withinFrame (q := .fEnd k) hop rfl rfl rfl with }
  · exact { h.withinFrame (q := .data k (s.bitidx - 1)) hop rfl rfl rfl with }

/-- After F_END the block is at rest: the saved mask was open, so the pending edge has been serviced (R102, R169). -/
theorem Consistent.atRest_endFramePins {s : State} {t : Transfer} {k : Nat} (h : Consistent s)
    (hop : s.opstate = .sending t (.fEnd k)) : AtRest s.endFramePins := by
  obtain ⟨hmask, hpend, -, -⟩ := endFramePins_of_saved_open (h.saved (by simp [hop, inFrame]))
  rw [endFramePins_eq] at hmask ⊢
  exact {
    maskOpen := hmask
    nonePending := hpend
    fsyncHigh := rfl
    clockHigh := by simp [h.clock, hop, clockIsLow]
    edge := h.edge
    configuration := h.configuration }

/-- What follows a frame keeps the lines; the next frame, if there is one, is one of the sequence's. -/
theorem AtRest.afterFrame_consistent {s : State} (h : AtRest s) (hb : s.bstate = .bIdle) (hresult : s.resValid = false)
    (t : Transfer) (k : Nat) : Consistent (s.afterFrame t k) := by
  obtain ⟨hk, heq⟩ | ⟨-, ⟨_, -, heq⟩ | ⟨_, -, heq⟩ | ⟨-, heq⟩ | ⟨_, _, -, heq⟩⟩ := afterFrame_cases t k s <;> rw [heq]
  · exact AtRest.consistent { h with } rfl hb nofun (by rintro _ _ ⟨⟩; exact hk) fun _ => hresult
  · exact AtRest.consistent_of_idle { h with } rfl hb
  · exact AtRest.consistent_of_idle { h with } rfl hb
  · exact AtRest.consistent_of_idle { h with } rfl hb
  · exact AtRest.consistent { h with } rfl hb nofun nofun fun _ => hresult

/-- Step F_END, whatever the chip reader makes of the frame (R161, R168). -/
theorem Consistent.endFrame {s : State} {t : Transfer} {k : Nat} (h : Consistent s)
    (hop : s.opstate = .sending t (.fEnd k)) (st : Byte) (fr : Word) (d : Nat) :
    Consistent (State.afterFrame t k { s.endFramePins with stage := st, freq := fr, draws := d }) := by
  have hpins : AtRest { s.endFramePins with stage := st, freq := fr, draws := d } := { h.atRest_endFramePins hop with }
  have hb : s.endFramePins.bstate = .bIdle := by
    rw [endFramePins_eq]
    exact h.bstate_bIdle (by simp [hop])
  have hresult : s.endFramePins.resValid = false := by
    rw [endFramePins_eq]
    exact h.noResult (by simp [hop])
  exact hpins.afterFrame_consistent hb hresult t k

/-! ### Every step keeps the invariant -/

/-- An edge is latched only under the mask, and `ENC_A_LAST` follows `ENC_A` (R101). -/
theorem Consistent.envStep {s : State} (h : Consistent s) (a b n : Option Bool) : Consistent (s.envStep a b n) := by
  obtain ⟨-, -, -, heq⟩ | ⟨-, -, hmask, heq⟩ | ⟨-, heq⟩ := envStep_cases a b n s <;> rw [heq]
  · exact { h with edge := rfl }
  · exact { h with edge := rfl, pending := fun _ => hmask }
  · exact { h with edge := rfl }

theorem AtRest.checkReady {s : State} (h : AtRest s) : AtRest s.checkReady := by
  rw [checkReady_eq]
  exact { h with }

theorem Consistent.readRes {s : State} (h : Consistent s) : Consistent s.readRes := by
  obtain ⟨-, heq⟩ | ⟨-, heq⟩ := readRes_cases s <;> rw [heq]
  · exact { h with }
  · exact { h with }

/-- Every atomic step keeps the invariant, whatever moves are left. -/
theorem StepEffect.consistent {s t : State} {ms : List Move} (hcons : Consistent s)
    (h : StepEffect s (s.withAgenda ms) t) : Consistent t := by
  have hrest (hout : inFrame s.opstate = false) : AtRest (s.withAgenda ms) := { hcons.atRest hout with }
  have hissued {w i} (htakes : s.Takes w i) : AtRest ((s.withAgenda ms).latch w) ∧ s.bstate = .bIdle :=
    ⟨{ hrest (by simp [htakes.idle, inFrame]) with }, hcons.bstate_bIdle (by simp [htakes.idle])⟩
  have hsame : Consistent (s.withAgenda ms) := { hcons with }
  cases h with
  | waits => exact hsame
  | refusesCode | refusesBits => exact { hcons with }
  | polls htakes | computesVfo htakes | computesWord htakes =>
    obtain ⟨hlines, hb⟩ := hissued htakes
    exact AtRest.consistent_of_idle { hlines with } rfl hb
  | @classifies w b htakes =>
    have hlatched : Consistent ((s.withAgenda ms).latch w) := { hcons with }
    exact hlatched.classify htakes.idle b
  | startsRaw htakes | startsInit htakes =>
    obtain ⟨hlines, hb⟩ := hissued htakes
    exact AtRest.startFrame_consistent { hlines with } hb rfl (Nat.zero_le _)
  | startsWrite htakes | startsTune htakes =>
    obtain ⟨hlines, hb⟩ := hissued htakes
    refine AtRest.startFrame_consistent (AtRest.checkReady { hlines with }) ?_ ?_ (Nat.zero_le _) <;> simp [hb]
  | ticks => exact hsame.timerStep
  | startsFrame hop =>
    exact (hrest (by simp [hop, inFrame])).startFrame_consistent (hcons.bstate_bIdle (by simp [hop]))
      (hcons.noResult (by simp [hop])) (hcons.position _ _ hop)
  | drivesData hop => exact hsame.dataStep hop
  | lowersClock hop => exact hsame.clkLowStep hop
  | raisesClock hop => exact hsame.clkHighStep hop
  | endsFrame st fr d hop => exact hsame.endFrame hop st fr d
  | setsRelay hop =>
    have hb : s.bstate = .bIdle := hcons.bstate_bIdle (by simp [hop])
    exact AtRest.consistent_of_idle { hrest (by simp [hop, inFrame]) with } rfl hb
  | reads => exact hsame.readRes
  | setsInputs => exact hsame.envStep _ _ _
  | resets => exact resetOf_consistent _ _ _ _ _ _

/-- Settles O47: every step is one of the atomic steps, and each of them keeps the invariant. -/
theorem everyStepKeepsConsistency : Obligations.EveryStepKeepsConsistency := by
  intro s t hcons hstep
  obtain ⟨ms, heffect⟩ := step_effect hstep
  exact heffect.consistent hcons

/-! ### Counting with the mask open -/

/-- A consistent idle machine that starts (R8, R104): the states between two polls of R105 and R106. -/
structure Waiting (s : State) : Prop where
  configured : configOk s.cfg = true
  consistent : Consistent s
  idle : s.opstate = .idle

theorem Waiting.maskOpen {s : State} (h : Waiting s) : s.imask = false := by
  simp [h.consistent.mask, h.idle, inFrame]

/-- The count that `ACC` comes to when the moves `ms` are made with the mask open (R106). -/
def State.tally (s : State) (ms : List Move) : Half := s.acc + BitVec.ofInt 16 (netEdges s.encA s.encB ms)

@[simp] theorem State.tally_nil (s : State) : s.tally [] = s.acc := by
  simp [State.tally, netEdges]

/-- With the mask open an environment step adds the first summand of the net sum to `ACC` (R101, R106). -/
theorem Waiting.envStep_acc {s : State} (h : Waiting s) (a b n : Option Bool) :
    (s.envStep a b n).acc =
      s.acc + BitVec.ofInt 16 (if !s.encA && a.getD s.encA then (if b.getD s.encB then -1 else 1) else 0) := by
  obtain ⟨hlast, hrise, -, heq⟩ | ⟨-, -, hmask, -⟩ | ⟨hsteady, heq⟩ := envStep_cases a b n s
  · have hlow : s.encA = false := h.consistent.edge.symm.trans hlast
    rw [heq, applyEdge_eq, hlow, show a.getD false = true from hlow ▸ hrise]
    change (if b.getD s.encB then s.acc - 1 else s.acc + 1) = _
    split
    · exact sub_eq_add_neg s.acc 1
    · rfl
  · simp [h.maskOpen] at hmask
  · have hnone : (!s.encA && a.getD s.encA) = false := by
      rw [h.consistent.edge] at hsteady
      simpa [imp_iff_not_or] using hsteady
    rw [heq, hnone]
    exact (BitVec.add_zero s.acc).symm

/-- An environment step leaves the count that `ACC` comes to as it was: its edge moves from the net sum to `ACC`. -/
theorem Waiting.envStep_tally {s : State} (h : Waiting s) (a b n : Option Bool) (ms : List Move) :
    (s.envStep a b n).tally ms = s.tally (.env a b n :: ms) := by
  have hpins : (s.envStep a b n).encA = a.getD s.encA ∧ (s.envStep a b n).encB = b.getD s.encB := by
    rw [envStep_eq]
    exact ⟨rfl, rfl⟩
  obtain ⟨hencA, hencB⟩ := hpins
  rw [State.tally, State.tally, h.envStep_acc, hencA, hencB, netEdges, BitVec.ofInt_add, add_assoc]

theorem step_of_readRes {s : State} {rest : List Move} (hcfg : configOk s.cfg = true)
    (hagenda : s.agenda = .readRes :: rest) : step s = .next (s.withAgenda rest).readRes := by
  simp [step, guarded, nextMove, takeMove, hcfg, hagenda]

/-- A move from outside leaves the machine waiting, and the count that `ACC` comes to as it was. -/
theorem Waiting.step_outside {s : State} {m : Move} {rest : List Move} (h : Waiting s) (hm : m.outside = true)
    (hagenda : s.agenda = m :: rest) :
    ∃ t, step s = .next t ∧ Waiting t ∧ t.agenda = rest ∧ ∀ ms, t.tally ms = s.tally (m :: ms) := by
  cases m with
  | readRes =>
    have hstep := step_of_readRes h.configured hagenda
    refine ⟨_, hstep, ⟨?_, everyStepKeepsConsistency _ _ h.consistent hstep, ?_⟩, ?_, fun ms => ?_⟩
    · simpa using h.configured
    · simpa using h.idle
    · simp
    · simp [State.tally, netEdges]
  | env a b n =>
    have hstep := step_of_env h.configured hagenda
    have hleft : Waiting (s.withAgenda rest) := ⟨h.configured, { h.consistent with }, h.idle⟩
    refine ⟨_, hstep, ⟨?_, everyStepKeepsConsistency _ _ h.consistent hstep, ?_⟩, ?_, hleft.envStep_tally a b n⟩
    · simpa using h.configured
    · rw [envStep_eq]; exact h.idle
    · rw [envStep_eq]; rfl
  | host | timer | block | reset => cases hm

/-- After moves from outside, `ACC` holds the count. -/
theorem Waiting.steps_outside {rest : List Move} : ∀ {ms : List Move} {s : State}, Waiting s →
    (∀ m ∈ ms, m.outside = true) → s.agenda = ms ++ rest →
    ∃ t, steps ms.length s = .next t ∧ Waiting t ∧ t.agenda = rest ∧ t.acc = s.tally ms
  | [], s, h, _, hagenda => ⟨s, rfl, h, hagenda, s.tally_nil.symm⟩
  | m :: ms, s, h, hout, hagenda => by
    obtain ⟨hm, hms⟩ := List.forall_mem_cons.1 hout
    obtain ⟨s', hstep, h', hagenda', htally⟩ := h.step_outside hm hagenda
    obtain ⟨t, hsteps, ht, hrest, hacc⟩ := h'.steps_outside hms hagenda'
    exact ⟨t, (steps_succ_of_next hstep _).trans hsteps, ht, hrest, hacc.trans (htally ms)⟩

theorem decodeHost_of_encPoll {w : HostWord} (hw : w.op = 0x1) : decodeHost w = .ok .encPoll := by
  obtain ⟨op, opa, opb⟩ := w
  cases hw
  exact decodeHost_encPoll opa opb

/-- A poll in a waiting machine returns the count, clears it, and leaves the machine waiting (R103). -/
theorem Waiting.step_poll {s : State} {w : HostWord} {rest : List Move} (h : Waiting s) (hw : w.op = 0x1)
    (hagenda : s.agenda = .host w :: rest) :
    ∃ t, step s = .next t ∧ Waiting t ∧ t.agenda = rest ∧ t.acc = 0 ∧ t.resValid = true
      ∧ t.res = s.acc.signExtend 32 := by
  have hruns := (stepRunsTheDecodedOperation s w rest _ h.configured h.idle hagenda (decodeHost_of_encPoll hw)).1
    nofun nofun
  have hstep := hruns.trans (encPollResult _ h.idle)
  exact ⟨_, hstep, ⟨h.configured, everyStepKeepsConsistency _ _ h.consistent hstep, h.idle⟩, rfl, rfl, rfl, rfl⟩

/-- After moves from outside, a poll returns the count. -/
theorem Waiting.steps_poll {s : State} {w : HostWord} {ms rest : List Move} (h : Waiting s) (hw : w.op = 0x1)
    (hout : ∀ m ∈ ms, m.outside = true) (hagenda : s.agenda = ms ++ .host w :: rest) :
    ∃ t, steps (ms.length + 1) s = .next t ∧ Waiting t ∧ t.agenda = rest ∧ t.acc = 0 ∧ t.resValid = true
      ∧ t.res = (s.tally ms).signExtend 32 := by
  obtain ⟨u, hsteps, hu, hagenda', hacc⟩ := h.steps_outside hout hagenda
  obtain ⟨t, hstep, ht, hrest, hclear, hvalid, hres⟩ := hu.step_poll hw hagenda'
  refine ⟨t, ?_, ht, hrest, hclear, hvalid, hacc ▸ hres⟩
  calc steps (ms.length + 1) s
    _ = steps 1 u := steps_add hsteps
    _ = .next t := steps_succ_of_next hstep 0

/-- Settles O36: from `ACC = 0` the count is the net sum. -/
theorem netSumOfEdges : Obligations.NetSumOfEdges := by
  intro s opa opb ms rest hcfg hcons hidle hzero hout hagenda
  obtain ⟨t, hsteps, -, hrest, hclear, hvalid, hres⟩ :=
    Waiting.steps_poll (w := ⟨0x1, opa, opb⟩) ⟨hcfg, hcons, hidle⟩ rfl hout hagenda
  refine ⟨t, hsteps, hrest, hclear, hvalid, ?_⟩
  rw [hres, State.tally, hzero, zero_add]

/-- The moves of `n` rising edges: `ENC_A` to 0 and then to 1, `n` times over (R72, R105). -/
def risingEdges (n : Nat) : List Move :=
  (List.replicate n [Move.env (some false) none none, Move.env (some true) none none]).flatten

theorem risingEdges_succ (n : Nat) : risingEdges (n + 1) =
    .env (some false) none none :: .env (some true) none none :: risingEdges n := rfl

theorem length_risingEdges (n : Nat) : (risingEdges n).length = 2 * n := by
  simp [risingEdges, mul_comm]

theorem outside_of_mem_risingEdges {n : Nat} {m : Move} (h : m ∈ risingEdges n) : m.outside = true := by
  induction n with
  | zero => cases h
  | succ n ih =>
    simp only [risingEdges_succ, List.mem_cons] at h
    obtain rfl | rfl | h := h
    · rfl
    · rfl
    · exact ih h

theorem netEdges_risingEdges (n : Nat) : ∀ a, netEdges a false (risingEdges n) = n := by
  induction n with
  | zero => intro a; rfl
  | succ n ih => intro a; simp [risingEdges_succ, netEdges, ih, add_comm]

theorem toInt_signExtend_ofInt {n : Nat} (h : n ≤ 32767) : ((BitVec.ofInt 16 n).signExtend 32).toInt = n := by
  rw [BitVec.toInt_signExtend_of_le (by decide), BitVec.toInt_ofInt]
  exact Int.bmod_eq_of_le (by omega) (by omega)

/-- Settles O37: the first poll returns the net sum of the `n` edges and leaves `ACC` at 0 for the second. -/
theorem accumulationLaw : Obligations.AccumulationLaw := by
  intro s n w1 w2 rest hcfg hcons hidle hzero hlow hw1 hw2 hagenda
  obtain ⟨t, hfirst, ht, hagenda', hclear, hvalid, hres⟩ :=
    Waiting.steps_poll (ms := risingEdges n) ⟨hcfg, hcons, hidle⟩ hw1 (fun _ => outside_of_mem_risingEdges) hagenda
  obtain ⟨u, hstep, -, -, hclear', hvalid', hres'⟩ := ht.step_poll hw2 hagenda'
  rw [length_risingEdges] at hfirst
  have hcount : t.res = (BitVec.ofInt 16 n).signExtend 32 := by
    rw [hres, State.tally, hzero, hlow, netEdges_risingEdges, zero_add]
  refine ⟨⟨t, hfirst, hvalid, hclear, hcount, fun hn => ?_⟩, u, ?_, hvalid', ?_, hclear'⟩
  · rw [hcount, toInt_signExtend_ofInt hn]
  · calc steps (2 * n + 2) s
      _ = steps 1 t := steps_add (m := 1) hfirst
      _ = .next u := steps_succ_of_next hstep 0
  · rw [hres', hclear]
    rfl

end Sys2Proof.Machine
end

section
/-! SUPPORT. The family of spec/41_button_classifier.md: one sample of the classifier, branch by branch (R121), the
steps of the tick timer (R123, R124), the bound on a classification (R125), and the source's examples (R127). -/

namespace Sys2Proof.Machine

/-! ### One sample, branch by branch -/

theorem evaluate_of_released {s : State} (hup : s.btnN = true) : s.evaluate = { s with bstate := .bSettle } := by
  simp [State.evaluate, hup]

theorem evaluate_of_turned {s : State} (hdown : s.btnN = false) (hturn : s.acc ≠ 0) :
    s.evaluate = { s with res := 3, resValid := true, opstate := .idle, bstate := .bIdle } := by
  calc s.evaluate
    _ = s.finishGesture .interruptedByEncoder := by rw [State.evaluate, hdown, if_neg Bool.false_ne_true, if_pos hturn]
    _ = _ := rfl

theorem evaluate_of_spent {s : State} (hdown : s.btnN = false) (hquiet : s.acc = 0) (hspent : s.rem = 0) :
    s.evaluate = { s with res := 2, resValid := true, opstate := .idle, bstate := .bIdle } := by
  calc s.evaluate
    _ = s.finishGesture .longPress := by simp [State.evaluate, hdown, hquiet, hspent]
    _ = _ := rfl

theorem evaluate_of_held {s : State} (hdown : s.btnN = false) (hquiet : s.acc = 0) (hleft : s.rem ≠ 0) :
    s.evaluate = s := by
  rw [State.evaluate, hdown, hquiet, if_neg Bool.false_ne_true, if_neg (not_not.2 rfl), if_neg hleft]

@[simp] theorem State.evaluate_agenda (s : State) : s.evaluate.agenda = s.agenda := by
  obtain ⟨-, h⟩ | ⟨-, -, h⟩ | ⟨-, -, -, h⟩ | ⟨-, -, -, h⟩ := evaluate_cases s <;> rw [h] <;> rfl

/-! ### The start step -/

theorem classify_of_up {s : State} (b : Half) (hup : s.btnN = true) :
    s.classify b = { s with res := 0, resValid := true, opstate := .idle, bstate := .bIdle } := by
  calc s.classify b
    _ = s.beginOp.finishGesture .notPressed := by simp [State.classify, hup]
    _ = _ := rfl

theorem classify_of_down {s : State} (b : Half) (hdown : s.btnN = false) :
    s.classify b = (s.beginOp.startWait b).evaluate := by
  simp [State.classify, hdown]

theorem classify_of_turned {s : State} (b : Half) (hdown : s.btnN = false) (hturn : s.acc ≠ 0) :
    s.classify b = { s with res := 3, resValid := true, opstate := .idle, bstate := .bIdle, rem := b } :=
  (classify_of_down b hdown).trans (evaluate_of_turned hdown hturn)

theorem classify_of_no_budget {s : State} (hdown : s.btnN = false) (hquiet : s.acc = 0) :
    s.classify 0 = { s with res := 2, resValid := true, opstate := .idle, bstate := .bIdle, rem := 0 } :=
  (classify_of_down 0 hdown).trans (evaluate_of_spent hdown hquiet rfl)

theorem classify_of_held {s : State} {b : Half} (hdown : s.btnN = false) (hquiet : s.acc = 0) (hb : b ≠ 0) :
    s.classify b = { s with resValid := false, bstate := .bWait, rem := b, opstate := .classifying } :=
  (classify_of_down b hdown).trans (evaluate_of_held hdown hquiet hb)

@[simp] theorem State.classify_agenda (b : Half) (s : State) : (s.classify b).agenda = s.agenda := by
  obtain ⟨-, h⟩ | ⟨-, h⟩ := classify_cases b s <;> simp [h]

theorem exec_btnClassify_of_idle {s : State} (b : Half) (hidle : s.opstate = .idle) :
    exec (.btnClassify b) s = .next (s.classify b) :=
  whenIdle_of_idle hidle _

/-- Settles O14: the sample of the start step, taken with the whole budget left; a result leaves `OPSTATE` at the
`IDLE` it had. -/
theorem btnClassifyStart : Obligations.BtnClassifyStart := by
  intro s b hidle
  rw [exec_btnClassify_of_idle b hidle]
  refine ⟨fun hup => ?_, fun hdown hturn => ?_, fun hdown hquiet hzero => ?_, fun hdown hquiet hleft => ?_⟩
  · rw [classify_of_up b hup, hidle]
  · rw [classify_of_turned b hdown hturn, hidle]
  · rw [hzero, classify_of_no_budget hdown hquiet, hidle]
  · rw [classify_of_held hdown hquiet hleft]

/-! ### The tick timer -/

theorem step_of_timer {s : State} {rest : List Move} (hcfg : configOk s.cfg = true)
    (hagenda : s.agenda = .timer :: rest) : step s = .next (s.withAgenda rest).timerStep := by
  simp [step, guarded, nextMove, takeMove, hcfg, hagenda]

theorem timerStep_of_bWait {s : State} (hwait : s.bstate = .bWait) : s.timerStep = s.countDown.evaluate := by
  simp [State.timerStep, hwait]

theorem timerStep_of_bSettle {s : State} (hsettle : s.bstate = .bSettle) :
    s.timerStep = s.finishGesture .shortPress := by
  simp [State.timerStep, hsettle]

theorem timerStep_of_bIdle {s : State} (hb : s.bstate = .bIdle) : s.timerStep = s := by
  simp [State.timerStep, hb]

@[simp] theorem State.timerStep_agenda (s : State) : s.timerStep.agenda = s.agenda := by
  obtain ⟨-, h⟩ | ⟨-, h⟩ | ⟨-, h⟩ := timerStep_cases s <;> simp [h]

/-- Settles O38: the sample of a tick, taken after `REM` is counted down. -/
theorem tickTakesOneSample : Obligations.TickTakesOneSample := by
  intro s rest hcfg hwait hagenda
  have hstep : step s = .next (s.withAgenda rest).countDown.evaluate :=
    (step_of_timer hcfg hagenda).trans (congrArg _ (timerStep_of_bWait hwait))
  rw [hstep]
  refine ⟨fun hup => ?_, fun hdown hturn => ?_, fun hdown hquiet hlast => ?_, fun hdown hquiet hleft => ?_⟩
  · exact congrArg _ (evaluate_of_released hup)
  · exact congrArg _ (evaluate_of_turned hdown hturn)
  · have hspent : s.rem - 1 = 0 := sub_eq_zero_of_eq hlast
    rw [← hspent]
    exact congrArg _ (evaluate_of_spent hdown hquiet hspent)
  · have hmore : s.rem - 1 ≠ 0 := sub_ne_zero_of_ne hleft
    exact congrArg _ (evaluate_of_held hdown hquiet hmore)

/-- Settles O39: the timer's step in `B_SETTLE` looks at neither the button nor the accumulator. -/
theorem settleEndsInShortPress : Obligations.SettleEndsInShortPress := by
  intro s rest hcfg hagenda
  rw [step_of_timer hcfg hagenda]
  exact ⟨fun hsettle => congrArg _ (timerStep_of_bSettle hsettle), fun hb => congrArg _ (timerStep_of_bIdle hb)⟩

/-! ### The bound on a classification -/

/-- A classification has completed with one of the four result codes (R66, R68, R121). -/
structure Completed (s : State) : Prop where
  idle : s.opstate = .idle
  classifierIdle : s.bstate = .bIdle
  valid : s.resValid = true
  code : s.res.toNat ≤ 3

/-- A classification runs, or has completed. -/
def RunsOrCompleted (s : State) : Prop := s.opstate = .classifying ∨ Completed s

/-- The most timer moves a classification can still need: the ticks its budget leaves and one settle step (R125). -/
def State.movesLeft (s : State) : Nat :=
  match s.bstate with
  | .bIdle => 0
  | .bWait => s.rem.toNat + 1
  | .bSettle => 1

theorem movesLeft_of_bWait {s : State} (h : s.bstate = .bWait) : s.movesLeft = s.rem.toNat + 1 := by
  simp [State.movesLeft, h]

theorem movesLeft_of_bSettle {s : State} (h : s.bstate = .bSettle) : s.movesLeft = 1 := by
  simp [State.movesLeft, h]

theorem Consistent.movesLeft_pos {s : State} (h : Consistent s) (hop : s.opstate = .classifying) :
    0 < s.movesLeft := by
  cases hb : s.bstate with
  | bIdle => exact absurd hop (h.classifier.1 hb)
  | bWait => simp [movesLeft_of_bWait hb]
  | bSettle => simp [movesLeft_of_bSettle hb]

theorem gestureCode_toNat_le (g : Gesture) : ((gestureCode g).zeroExtend 32).toNat ≤ 3 := by
  cases g <;> decide

theorem completed_finishGesture (g : Gesture) (s : State) : Completed (s.finishGesture g) :=
  ⟨rfl, rfl, rfl, gestureCode_toNat_le g⟩

/-- A sample ends the classification or goes on with it, and needs no more moves than the wait did (R121). -/
theorem evaluate_runsOrCompleted {s : State} (hop : s.opstate = .classifying) (hwait : s.bstate = .bWait) :
    RunsOrCompleted s.evaluate ∧ s.evaluate.movesLeft ≤ s.rem.toNat + 1 := by
  obtain ⟨-, heq⟩ | ⟨-, -, heq⟩ | ⟨-, -, -, heq⟩ | ⟨-, -, -, heq⟩ := evaluate_cases s <;> rw [heq]
  · exact ⟨.inl hop, Nat.le_add_left 1 _⟩
  · exact ⟨.inr (completed_finishGesture _ s), Nat.zero_le _⟩
  · exact ⟨.inr (completed_finishGesture _ s), Nat.zero_le _⟩
  · exact ⟨.inl hop, (movesLeft_of_bWait hwait).le⟩

theorem classify_runsOrCompleted (b : Half) (s : State) :
    RunsOrCompleted (s.classify b) ∧ (s.classify b).movesLeft ≤ b.toNat + 1 := by
  obtain ⟨-, heq⟩ | ⟨-, heq⟩ := classify_cases b s <;> rw [heq]
  · exact ⟨.inr (completed_finishGesture _ _), Nat.zero_le _⟩
  · exact evaluate_runsOrCompleted (s := s.beginOp.startWait b) rfl rfl

/-- Each timer move brings a running classification nearer to its end (R123, R124). -/
theorem Consistent.timerStep_runsOrCompleted {s : State} (h : Consistent s) (hop : s.opstate = .classifying) :
    RunsOrCompleted s.timerStep ∧ s.timerStep.movesLeft < s.movesLeft := by
  obtain ⟨hb, -⟩ | ⟨hwait, heq⟩ | ⟨hsettle, heq⟩ := timerStep_cases s
  · exact absurd hop (h.classifier.1 hb)
  · obtain ⟨hruns, hle⟩ := evaluate_runsOrCompleted (s := s.countDown) hop hwait
    have hrem : (s.rem - 1).toNat + 1 = s.rem.toNat := by
      have hne : s.rem ≠ 0 := h.budget hwait
      bv_omega
    rw [heq, movesLeft_of_bWait hwait, ← hrem]
    exact ⟨hruns, Nat.lt_succ_of_le hle⟩
  · rw [heq, movesLeft_of_bSettle hsettle]
    exact ⟨.inr (completed_finishGesture _ s), Nat.zero_lt_one⟩

/-- What a move from outside leaves of the classifier (R126). -/
theorem step_of_outside {s : State} {m : Move} {rest : List Move} (hcfg : configOk s.cfg = true)
    (hm : m.outside = true) (hagenda : s.agenda = m :: rest) :
    ∃ t, step s = .next t ∧ t.agenda = rest ∧ t.opstate = s.opstate ∧ t.movesLeft = s.movesLeft := by
  cases m with
  | readRes => exact ⟨_, step_of_readRes hcfg hagenda, by simp [State.movesLeft]⟩
  | env a b n =>
    refine ⟨_, step_of_env hcfg hagenda, ?_⟩
    rw [envStep_eq]
    exact ⟨rfl, rfl, rfl⟩
  | host | timer | block | reset => cases hm

/-- A consistent machine that starts (R8), with a classification running or completed. -/
structure Classification (s : State) : Prop where
  configured : configOk s.cfg = true
  consistent : Consistent s
  runs : RunsOrCompleted s

/-- A step keeps the configuration and the invariant, so only the classification itself is left to look at. -/
theorem classification_of_step {s t : State} (hcfg : configOk s.cfg = true) (hcons : Consistent s)
    (hstep : step s = .next t) (hruns : RunsOrCompleted t) : Classification t := by
  obtain ⟨ms, heffect⟩ := step_effect hstep
  exact ⟨heffect.cfg_eq ▸ hcfg, heffect.consistent hcons, hruns⟩

/-- A move of the timer or from outside takes a running classification on; one of the timer brings it nearer to its
end. -/
theorem Classification.step {s : State} {m : Move} {rest : List Move} (h : Classification s)
    (hop : s.opstate = .classifying) (hm : m.outside = true ∨ m = .timer) (hagenda : s.agenda = m :: rest) :
    ∃ t, step s = .next t ∧ Classification t ∧ t.agenda = rest ∧ t.movesLeft + [m].count .timer ≤ s.movesLeft := by
  obtain hout | rfl := hm
  · obtain ⟨t, hstep, hrest, hkeeps, hleft⟩ := step_of_outside h.configured hout hagenda
    have hne : m ≠ .timer := by rintro rfl; cases hout
    have hnone : [m].count .timer = 0 := List.count_eq_zero.2 (by simpa using hne.symm)
    exact ⟨t, hstep, classification_of_step h.configured h.consistent hstep (.inl (hkeeps.trans hop)), hrest, by omega⟩
  · have hstep := step_of_timer h.configured hagenda
    have hleft : Consistent (s.withAgenda rest) := { h.consistent with }
    obtain ⟨hruns, hless⟩ := hleft.timerStep_runsOrCompleted hop
    exact ⟨_, hstep, classification_of_step h.configured h.consistent hstep hruns, by simp, hless⟩

/-- With as many timer moves to come as it can need, a classification completes, and takes no more of them. -/
theorem Classification.completes : ∀ {ms : List Move} {s : State}, Classification s →
    (∀ m ∈ ms, m.outside = true ∨ m = .timer) → s.agenda = ms → s.movesLeft ≤ ms.count .timer →
    ∃ n t, n ≤ ms.length ∧ (ms.take n).count .timer ≤ s.movesLeft ∧ steps n s = .next t ∧ Completed t
  | ms, s, h, hms, hagenda, henough => by
    obtain hop | hdone := h.runs
    · have hpos := h.consistent.movesLeft_pos hop
      cases ms with
      | nil => simp at henough; omega
      | cons m ms =>
        obtain ⟨hm, hms⟩ := List.forall_mem_cons.1 hms
        obtain ⟨s', hstep, h', hagenda', hless⟩ := h.step hop hm hagenda
        have hcount (l : List Move) : (m :: l).count .timer = [m].count .timer + l.count .timer :=
          List.count_append (l₁ := [m])
        rw [hcount] at henough
        obtain ⟨n, t, hn, htaken, hsteps, ht⟩ := h'.completes hms hagenda' (by omega)
        refine ⟨n + 1, t, Nat.succ_le_succ hn, ?_, (steps_succ_of_next hstep n).trans hsteps, ht⟩
        rw [List.take_succ_cons, hcount]
        omega
    · exact ⟨0, s, Nat.zero_le _, Nat.zero_le _, rfl, hdone⟩

/-- The idle machine takes a BTN_CLASSIFY that is next (R60, R121). -/
theorem step_of_btnClassify {s : State} {opa : Word} {b : Half} {rest : List Move} (hcfg : configOk s.cfg = true)
    (hidle : s.opstate = .idle) (hagenda : s.agenda = .host ⟨0x2, opa, b⟩ :: rest) :
    step s = .next (((s.withAgenda rest).latch ⟨0x2, opa, b⟩).classify b) := by
  have hruns := (stepRunsTheDecodedOperation s _ rest _ hcfg hidle hagenda (decodeHost_btnClassify opa b)).1 nofun nofun
  exact hruns.trans (exec_btnClassify_of_idle b hidle)

/-- Settles O40: the start step leaves at most `budget + 1` moves of the timer to need. -/
theorem classificationTerminates : Obligations.ClassificationTerminates := by
  intro s opa b ms hcfg hcons hidle hms henough hagenda
  have hstep := step_of_btnClassify hcfg hidle hagenda
  obtain ⟨hruns, hleft⟩ := classify_runsOrCompleted b ((s.withAgenda ms).latch ⟨0x2, opa, b⟩)
  have hclass := classification_of_step hcfg hcons hstep hruns
  obtain ⟨n, t, hn, htaken, hsteps, ht⟩ := hclass.completes hms (by simp) (hleft.trans henough)
  exact ⟨n, t, hn, htaken.trans hleft, (steps_succ_of_next hstep n).trans hsteps, ht.idle, ht.classifierIdle, ht.valid,
    ht.code⟩

/-! ### The source's examples -/

/-- The machine is idle, with the button pressed, no turn counted and the mask open: where the examples start (R127). -/
structure Pressed (s : State) : Prop where
  configured : configOk s.cfg = true
  idle : s.opstate = .idle
  maskOpen : s.imask = false
  down : s.btnN = false
  quiet : s.acc = 0

/-- The classifier waits, with `r` ticks of the budget left. -/
structure InWait (s : State) (r : Nat) : Prop where
  configured : configOk s.cfg = true
  waits : s.bstate = .bWait
  left : s.rem.toNat = r

/-- The classifier waits, with the button held, no turn counted and the mask open. -/
structure Held (s : State) (r : Nat) : Prop extends InWait s r where
  maskOpen : s.imask = false
  down : s.btnN = false
  quiet : s.acc = 0

theorem InWait.left_pred {s : State} {r : Nat} (h : InWait s (r + 1)) : (s.rem - 1).toNat = r := by
  have hleft := h.left
  bv_omega

/-- The start step, the button held and a budget given (R121). -/
theorem Pressed.step_starts {s : State} {opa : Word} {b : Half} {rest : List Move} (h : Pressed s) (hb : b ≠ 0)
    (hagenda : s.agenda = .host ⟨0x2, opa, b⟩ :: rest) :
    ∃ t, step s = .next t ∧ Held t b.toNat ∧ t.agenda = rest := by
  have hstep := step_of_btnClassify h.configured h.idle hagenda
  rw [classify_of_held (s := (s.withAgenda rest).latch _) h.down h.quiet hb] at hstep
  exact ⟨_, hstep, ⟨⟨h.configured, rfl, rfl⟩, h.maskOpen, h.down, h.quiet⟩, rfl⟩

/-- The start step, the button held and no budget given: LONG_PRESS at once (R121). -/
theorem Pressed.steps_no_budget {s : State} {opa : Word} {rest : List Move} (h : Pressed s)
    (hagenda : s.agenda = .host ⟨0x2, opa, 0⟩ :: rest) :
    ∃ t, steps 1 s = .next t ∧ t.opstate = .idle ∧ t.resValid = true ∧ t.res = 2 ∧ t.rem = 0 := by
  have hstep := step_of_btnClassify h.configured h.idle hagenda
  rw [classify_of_no_budget (s := (s.withAgenda rest).latch _) h.down h.quiet] at hstep
  exact ⟨_, steps_succ_of_next hstep 0, rfl, rfl, rfl, rfl⟩

/-- A tick with the button held and more than one tick left only counts down (R123). -/
theorem Held.step_timer {s : State} {r : Nat} {rest : List Move} (h : Held s (r + 1)) (hr : 0 < r)
    (hagenda : s.agenda = .timer :: rest) : ∃ t, step s = .next t ∧ Held t r ∧ t.agenda = rest := by
  obtain ⟨-, -, -, hcounts⟩ := tickTakesOneSample s rest h.configured h.waits hagenda
  have hmore : s.rem ≠ 1 := by
    have hleft := h.left
    bv_omega
  exact ⟨_, hcounts h.down h.quiet hmore, { h with left := h.left_pred }, rfl⟩

theorem Held.steps_timer {r : Nat} {rest : List Move} (hr : 0 < r) : ∀ {k : Nat} {s : State}, Held s (r + k) →
    s.agenda = List.replicate k .timer ++ rest → ∃ t, steps k s = .next t ∧ Held t r ∧ t.agenda = rest
  | 0, s, h, hagenda => ⟨s, rfl, h, hagenda⟩
  | k + 1, s, h, hagenda => by
    obtain ⟨s', hstep, h', hagenda'⟩ := h.step_timer (r := r + k) (by omega) hagenda
    obtain ⟨t, hsteps, ht, hrest⟩ := Held.steps_timer hr h' hagenda'
    exact ⟨t, (steps_succ_of_next hstep k).trans hsteps, ht, hrest⟩

/-- After the start step and `k` ticks with the button held, `r` ticks of the budget `r + k` are left. -/
theorem Pressed.steps_ticks {s : State} {opa : Word} {b : Half} {k r : Nat} {rest : List Move} (h : Pressed s)
    (hb : b.toNat = r + k) (hr : 0 < r)
    (hagenda : s.agenda = .host ⟨0x2, opa, b⟩ :: (List.replicate k .timer ++ rest)) :
    ∃ t, steps (k + 1) s = .next t ∧ Held t r ∧ t.agenda = rest := by
  have hne : b ≠ 0 := by rintro rfl; simp at hb; omega
  obtain ⟨s', hstep, h', hagenda'⟩ := h.step_starts hne hagenda
  obtain ⟨t, hsteps, ht, hrest⟩ := Held.steps_timer hr (hb ▸ h') hagenda'
  exact ⟨t, (steps_succ_of_next hstep k).trans hsteps, ht, hrest⟩

/-- The last tick of the budget, the button still held (R123). -/
theorem Held.longPress {s : State} {rest : List Move} (h : Held s 1) (hagenda : s.agenda = .timer :: rest) :
    ∃ t, steps 1 s = .next t ∧ t.opstate = .idle ∧ t.resValid = true ∧ t.res = 2 ∧ t.rem = 0 := by
  obtain ⟨-, -, hlast, -⟩ := tickTakesOneSample s rest h.configured h.waits hagenda
  have hstep := hlast h.down h.quiet (BitVec.eq_of_toNat_eq h.left)
  exact ⟨_, steps_succ_of_next hstep 0, rfl, rfl, rfl, rfl⟩

/-- The environment releases the button (R211). -/
theorem InWait.step_release {s : State} {r : Nat} {rest : List Move} (h : InWait s r)
    (hagenda : s.agenda = .env none none (some true) :: rest) :
    ∃ t, step s = .next t ∧ InWait t r ∧ t.btnN = true ∧ t.agenda = rest := by
  refine ⟨_, step_of_env h.configured hagenda, ?_⟩
  rw [envStep_eq]
  exact ⟨{ h with }, rfl, rfl⟩

/-- The tick that samples a release, and the settle step (R123, R124). -/
theorem InWait.steps_settle {s : State} {r : Nat} {rest : List Move} (h : InWait s (r + 1)) (hup : s.btnN = true)
    (hagenda : s.agenda = .timer :: .timer :: rest) :
    ∃ t, steps 2 s = .next t ∧ t.opstate = .idle ∧ t.resValid = true ∧ t.res = 1 ∧ t.rem.toNat = r := by
  have htick := (tickTakesOneSample s _ h.configured h.waits hagenda).1 hup
  have hsettle := (settleEndsInShortPress
    { s with agenda := .timer :: rest, rem := s.rem - 1, bstate := .bSettle } rest h.configured rfl).1 rfl
  exact ⟨_, (steps_succ_of_next htick 1).trans (steps_succ_of_next hsettle 0), rfl, rfl, rfl, h.left_pred⟩

/-- The environment turns the encoder by one: `ENC_A` and `ENC_B` low, then a rising edge of `ENC_A` (R101). -/
theorem Held.steps_turn {s : State} {r : Nat} {rest : List Move} (h : Held s r)
    (hagenda : s.agenda = .env (some false) (some false) none :: .env (some true) none none :: rest) :
    ∃ t, steps 2 s = .next t ∧ InWait t r ∧ t.btnN = false ∧ t.acc = 1 ∧ t.agenda = rest := by
  have hlow := otherLevelChangesCountNothing s _ _ _ _ h.configured hagenda (.inr rfl)
  have hrise := openEdgeCountsAtOnce
    { s with agenda := .env (some true) none none :: rest, encA := false, encB := false, encALast := false }
    none none rest h.configured rfl rfl h.maskOpen
  have hone : s.acc + 1 = 1 := by rw [h.quiet, zero_add]
  exact ⟨_, (steps_succ_of_next hlow 1).trans (steps_succ_of_next hrise 0), ⟨h.configured, h.waits, h.left⟩, h.down,
    hone, rfl⟩

/-- The tick that samples a turn leaves it in `ACC` (R122, R123). -/
theorem InWait.interrupted {s : State} {r : Nat} {rest : List Move} (h : InWait s (r + 1)) (hdown : s.btnN = false)
    (hturn : s.acc = 1) (hagenda : s.agenda = .timer :: rest) :
    ∃ t, steps 1 s = .next t ∧ t.opstate = .idle ∧ t.resValid = true ∧ t.res = 3 ∧ t.acc = 1 ∧ t.rem.toNat = r := by
  obtain ⟨-, hturned, -, -⟩ := tickTakesOneSample s rest h.configured h.waits hagenda
  have hstep := hturned hdown (by rw [hturn]; decide)
  exact ⟨_, steps_succ_of_next hstep 0, rfl, rfl, rfl, hturn, h.left_pred⟩

/-- Settles O41: each example is a wait with the button held, and then one of the three ends. -/
theorem classifierExamples : Obligations.ClassifierExamples := by
  intro s opa b k rest hcfg hidle _ hopen hdown hquiet
  have h : Pressed s := ⟨hcfg, hidle, hopen, hdown, hquiet⟩
  refine ⟨fun hagenda => ?_, fun hk hagenda => ?_, fun hk hagenda => ?_⟩
  · cases hb : b.toNat with
    | zero =>
      obtain rfl : b = 0 := BitVec.eq_of_toNat_eq hb
      exact h.steps_no_budget hagenda
    | succ j =>
      rw [hb, List.replicate_succ', List.append_assoc] at hagenda
      obtain ⟨u, hsteps, hu, hrest⟩ := h.steps_ticks (hb.trans (add_comm j 1)) Nat.zero_lt_one hagenda
      obtain ⟨t, hend, ht⟩ := hu.longPress hrest
      exact ⟨t, (steps_add hsteps).trans hend, ht⟩
  · have hb : b.toNat = b.toNat - (k + 1) + 1 + k := by omega
    obtain ⟨u, hsteps, hu, hrest⟩ := h.steps_ticks hb (Nat.succ_pos _) hagenda
    obtain ⟨v, hrelease, hv, hup, hrest⟩ := hu.toInWait.step_release hrest
    obtain ⟨t, hend, ht⟩ := hv.steps_settle hup hrest
    refine ⟨t, ?_, ht⟩
    calc steps (k + 4) s
      _ = steps 3 u := steps_add (m := 3) hsteps
      _ = steps 2 v := steps_succ_of_next hrelease 2
      _ = .next t := hend
  · have hb : b.toNat = b.toNat - (k + 1) + 1 + k := by omega
    obtain ⟨u, hsteps, hu, hrest⟩ := h.steps_ticks hb (Nat.succ_pos _) hagenda
    obtain ⟨v, hturn, hv, hstill, hone, hrest⟩ := hu.steps_turn hrest
    obtain ⟨t, hend, ht⟩ := hv.interrupted hstill hone hrest
    refine ⟨t, ?_, ht⟩
    calc steps (k + 4) s
      _ = steps 3 u := steps_add (m := 3) hsteps
      _ = steps 1 v := steps_add (m := 1) hturn
      _ = .next t := hend

end Sys2Proof.Machine
end

section
/-! SUPPORT. The family of spec/42_frequency_model.md: the ratio `K` (R141), the clamp (R143), the VFO frequency and its
sign (R145, R149), and the eight-digit loop with its closed form (R146 to R148). -/

namespace Sys2Proof.Machine

/-! ### The ratio -/

/-- A tie of R141 would make the odd number `2 * k - 1` divide `2^33`, and so be 1. -/
theorem no_tie_of_lt {r k : Nat} (hr : r < 2 ^ 33) : 2 * (r * k) ≠ 2 ^ 33 + r := by
  intro htie
  have hfactor : r * (2 * k - 1) = 2 ^ 33 := by
    rw [Nat.mul_sub, mul_left_comm]
    omega
  have hk : k ≠ 0 := by
    rintro rfl
    omega
  have hodd : Nat.Coprime (2 * k - 1) (2 ^ 33) := (Nat.coprime_two_right.2 ⟨k - 1, by omega⟩).pow_right 33
  have hone : 2 * k - 1 = 1 := hodd.eq_one_of_dvd (Dvd.intro_left r hfactor)
  rw [hone, mul_one] at hfactor
  exact hr.ne hfactor

/-- Settles O42: the floor leaves a remainder below the divisor, and the remainder 0 would be a tie. -/
theorem ratioIsTheNearestInteger : Obligations.RatioIsTheNearestInteger := by
  intro c hcfg
  obtain ⟨hlow, hhigh, -⟩ := (configOk_iff c).1 hcfg
  have hpos : 0 < 2 * c.refClkHz := by omega
  have hfloor : 2 * (c.refClkHz * ratioK c) ≤ 2 ^ 33 + c.refClkHz := by
    rw [← mul_assoc]
    exact Nat.mul_div_le _ _
  have hnext : 2 ^ 33 + c.refClkHz < 2 * (c.refClkHz * ratioK c) + 2 * c.refClkHz := by
    rw [← mul_assoc]
    exact Nat.lt_mul_div_succ _ hpos
  refine ⟨rfl, (Nat.one_le_div_iff hpos).2 (by omega), ?_, hfloor.lt_of_ne (no_tie_of_lt (by omega)), by omega⟩
  exact Nat.le_of_lt_succ (Nat.div_lt_of_lt_mul (by omega))

/-! ### The clamp and the VFO frequency -/

theorem clamp_of_lt {f : Int} (h : f < 100000) : clamp f = 100000 := if_pos h

theorem clamp_of_gt {f : Int} (h : 20000000 < f) : clamp f = 20000000 := by
  have hlow : 100000 ≤ f := by omega
  exact (if_neg hlow.not_gt).trans (if_pos h)

theorem clamp_of_mem {f : Int} (hlow : 100000 ≤ f) (hhigh : f ≤ 20000000) : clamp f = f :=
  (if_neg hlow.not_gt).trans (if_neg hhigh.not_gt)

/-- Settles O46, range by range. -/
theorem clampKeepsTheRange : Obligations.ClampKeepsTheRange :=
  fun _ => ⟨clamp_of_lt, clamp_of_gt, clamp_of_mem⟩

/-- A clamped frequency is in the range of R143. -/
theorem clamp_mem (f : Int) : 100000 ≤ clamp f ∧ clamp f ≤ 20000000 := by
  obtain h | h | ⟨hlow, hhigh⟩ : f < 100000 ∨ 20000000 < f ∨ (100000 ≤ f ∧ f ≤ 20000000) := by omega
  · simp [clamp_of_lt h]
  · simp [clamp_of_gt h]
  · simp [clamp_of_mem hlow hhigh, hlow, hhigh]

/-- Where the shifted frequency is an `s32`, nothing wraps (R145). -/
theorem vfo_toInt {c : Config} {f : Int} (h : |f| + c.ifHz < 2 ^ 31) (usb : Bool) :
    (vfo c f usb).toInt = if usb then f - c.ifHz else f + c.ifHz := by
  obtain ⟨hlow, hhigh⟩ := abs_le.1 (le_refl |f|)
  cases usb <;> exact BitVec.toInt_ofInt_eq_self (by decide) (by omega) (by omega)

/-- Settles O45, sideband by sideband. -/
theorem ifOffsetRoundTrip : Obligations.IfOffsetRoundTrip := by
  intro c f h
  have husb : (vfo c f true).toInt = f - c.ifHz := vfo_toInt h true
  have hlsb : (vfo c f false).toInt = f + c.ifHz := vfo_toInt h false
  rw [husb, hlsb]
  exact ⟨sub_add_cancel f _, add_sub_cancel_right f _⟩

/-- Under R8 the VFO frequency of a clamped receive frequency does not wrap (R147). -/
theorem vfo_clamp_toInt {c : Config} (hcfg : configOk c = true) (f : Int) (usb : Bool) :
    (vfo c (clamp f) usb).toInt = if usb then clamp f - c.ifHz else clamp f + c.ifHz := by
  obtain ⟨-, -, hif, -⟩ := (configOk_iff c).1 hcfg
  obtain ⟨hlow, hhigh⟩ := clamp_mem f
  have habs : |clamp f| = clamp f := abs_of_nonneg (by omega)
  exact vfo_toInt (by omega) usb

/-- The bound of R147 on the VFO frequency of a clamped receive frequency. -/
theorem abs_vfo_clamp_le {c : Config} (hcfg : configOk c = true) (f : Int) (usb : Bool) :
    |(vfo c (clamp f) usb).toInt| ≤ 20000000 + 79999999 := by
  obtain ⟨-, -, hif, -⟩ := (configOk_iff c).1 hcfg
  obtain ⟨hlow, hhigh⟩ := clamp_mem f
  rw [vfo_clamp_toInt hcfg, abs_le]
  split <;> omega

/-- An operation that returns a value in its one step leaves `OPSTATE` at the `IDLE` it found (R30, R68). -/
theorem finishWith_beginOp_of_idle {s : State} (hidle : s.opstate = .idle) (r : Word) :
    s.beginOp.finishWith r = { s with res := r, resValid := true } := by
  calc s.beginOp.finishWith r
    _ = { s with res := r, resValid := true, opstate := .idle } := rfl
    _ = { s with res := r, resValid := true } := by rw [hidle]

/-- Settles O15: the one step of FM_VFO returns `vfo` of the configuration. -/
theorem fmVfoResult : Obligations.FmVfoResult := by
  intro s f usb hidle
  calc exec (.fmVfo f usb) s
    _ = .next (s.computeVfo f usb) := whenIdle_of_idle hidle _
    _ = .next { s with res := vfo s.cfg f.toInt usb, resValid := true } :=
      congrArg _ (finishWith_beginOp_of_idle hidle _)

/-! ### The eight-digit loop -/

/-- The lowest decimal digit and the digits above it, for truncating division (R10). -/
theorem tmod_ten_pow_succ (x : Int) (n : Nat) :
    x.tmod (10 ^ (n + 1)) = x.tmod 10 + 10 * (x.tdiv 10).tmod (10 ^ n) := by
  have hnat (m : Nat) : (m : Int).tmod (10 ^ (n + 1)) = (m : Int).tmod 10 + 10 * ((m : Int).tdiv 10).tmod (10 ^ n) := by
    have hdigits : m % 10 ^ (n + 1) = m % 10 + 10 * (m / 10 % 10 ^ n) := by rw [pow_succ', Nat.mod_mul]
    simp only [← Nat.cast_ofNat (R := Int), ← Int.natCast_pow, ← Int.ofNat_tmod, ← Int.ofNat_tdiv]
    exact_mod_cast hdigits
  obtain ⟨m, rfl | rfl⟩ := x.eq_nat_or_neg
  · exact hnat m
  · rw [Int.neg_tmod, Int.neg_tmod, Int.neg_tdiv, Int.neg_tmod, hnat m]
    ring

/-- A number of at most eight decimal digits is its own remainder, whatever its sign (R147). -/
theorem tmod_of_eight_digits {v : Int} (hlow : -(10 ^ 8) < v) (hhigh : v < 10 ^ 8) : v.tmod (10 ^ 8) = v := by
  obtain hpos | hneg := le_total 0 v
  · exact Int.tmod_eq_of_lt hpos hhigh
  · have hmod : (-v).tmod (10 ^ 8) = -v := Int.tmod_eq_of_lt (by omega) (by omega)
    rwa [Int.neg_tmod, neg_inj] at hmod

/-- One turn of the loop adds the digit's share, modulo `2^32` (R142, R146). -/
theorem wrap32_add_digit (c : Config) (k : Nat) (d : Int) (acc : Word) :
    wrap32 ((acc.toNat : Int) + d * ((coef c k).toNat : Int)) = acc + BitVec.ofInt 32 (ratioK c * 10 ^ k * d) := by
  have hcoef : coef c k = BitVec.ofInt 32 (ratioK c * 10 ^ k) := by
    rw [coef, ← BitVec.ofInt_natCast]
    push_cast
    rfl
  calc wrap32 ((acc.toNat : Int) + d * ((coef c k).toNat : Int))
    _ = acc + BitVec.ofInt 32 d * coef c k := by
      simp only [wrap32, BitVec.ofInt_add, BitVec.ofInt_mul, BitVec.ofInt_natCast, BitVec.ofNat_toNat,
        BitVec.setWidth_eq]
    _ = acc + BitVec.ofInt 32 (ratioK c * 10 ^ k * d) := by rw [hcoef, ← BitVec.ofInt_mul, mul_comm d]

/-- `n` turns from digit `k` on add the `n` lowest digits of `x`, weighted by `K * 10^k`. -/
theorem twordLoop_eq (c : Config) : ∀ (n k : Nat) (x : Int) (acc : Word),
    twordLoop c n k x acc = acc + BitVec.ofInt 32 (ratioK c * 10 ^ k * x.tmod (10 ^ n))
  | 0, k, x, acc => by simp [twordLoop]
  | n + 1, k, x, acc => by
    calc twordLoop c (n + 1) k x acc
      _ = acc + BitVec.ofInt 32 (ratioK c * 10 ^ k * x.tmod 10)
            + BitVec.ofInt 32 (ratioK c * 10 ^ (k + 1) * (x.tdiv 10).tmod (10 ^ n)) := by
        rw [twordLoop, twordLoop_eq c n, wrap32_add_digit, tmod, tdiv]
      _ = acc + BitVec.ofInt 32 (ratioK c * 10 ^ k * x.tmod (10 ^ (n + 1))) := by
        rw [add_assoc, ← BitVec.ofInt_add, tmod_ten_pow_succ]
        congr 2
        ring

/-- The closed form of R147, for every integer. -/
theorem tword_eq (c : Config) (v : Int) : tword c v = BitVec.ofInt 32 (ratioK c * v.tmod (10 ^ 8)) := by
  rw [tword, twordLoop_eq, pow_zero, mul_one]
  exact BitVec.zero_add _

theorem tword_of_eight_digits {c : Config} {v : Int} (hlow : -(10 ^ 8) < v) (hhigh : v < 10 ^ 8) :
    tword c v = BitVec.ofInt 32 (ratioK c * v) := by
  rw [tword_eq, tmod_of_eight_digits hlow hhigh]

/-- Settles O16: the one step of FM_TWORD returns `tword`, which has the closed form. -/
theorem fmTwordResult : Obligations.FmTwordResult := by
  intro s v hidle
  calc exec (.fmTword v) s
    _ = .next (s.computeWord v) := whenIdle_of_idle hidle _
    _ = .next { s with res := tword s.cfg v.toInt, resValid := true } :=
      congrArg _ (finishWith_beginOp_of_idle hidle _)
    _ = .next { s with res := BitVec.ofInt 32 (ratioK s.cfg * v.toInt.tmod (10 ^ 8)), resValid := true } := by
      rw [tword_eq]

/-- Settles O43, by the closed form and the bound on the VFO frequency. -/
theorem tuningWordClosedForm : Obligations.TuningWordClosedForm := by
  refine ⟨fun c v _ _ => ⟨tword_eq c v, tword_of_eight_digits⟩, fun c f usb hcfg => ?_⟩
  have hbound := abs_vfo_clamp_le hcfg f usb
  obtain ⟨hlow, hhigh⟩ := abs_le.1 hbound
  exact ⟨hbound, tword_of_eight_digits (by omega) (by omega)⟩

/-- Below the wrap point the word is the product itself. -/
theorem tword_toNat {c : Config} {v : Int} (hpos : 0 ≤ v) (hdigits : v < 10 ^ 8) (hwrap : ratioK c * v < 2 ^ 32) :
    ((tword c v).toNat : Int) = ratioK c * v := by
  have hprod : 0 ≤ ratioK c * v := mul_nonneg (Int.natCast_nonneg _) hpos
  rw [tword_of_eight_digits (by omega) hdigits, BitVec.toNat_ofInt]
  omega

/-- Settles O44: both words are the products, and `K` is not negative. -/
theorem tuningWordMonotone : Obligations.TuningWordMonotone := by
  intro c v1 v2 hpos hle hdigits hwrap
  have hprod : (ratioK c : Int) * v1 ≤ ratioK c * v2 := mul_le_mul_of_nonneg_left hle (Int.natCast_nonneg _)
  have hword1 := tword_toNat hpos (by omega) (hprod.trans_lt hwrap)
  have hword2 := tword_toNat (hpos.trans hle) hdigits hwrap
  omega

end Sys2Proof.Machine
end

section
/-! SUPPORT. The family of spec/43_dds_serializer.md: the steps of a frame (R161, R162), the chip reader (R167, R168),
and the frame sequences under any interleaving of the agents (R163, R164, R166). -/

namespace Sys2Proof.Machine

/-! ### What the frames do at the chip reader -/

/-- Settles O21: the meanings of these four frame rows are these updates. -/
theorem stagingAndCommandFrames : Obligations.StagingAndCommandFrames :=
  fun _ _ => ⟨rfl, rfl, rfl, rfl⟩

/-- Bytes and words put side by side, in numbers (R51, R63). -/
theorem toNat_append_eq_add {m n : Nat} (x : BitVec m) (y : BitVec n) :
    (x ++ y).toNat = x.toNat * 2 ^ n + y.toNat := by
  rw [BitVec.toNat_append, ← Nat.shiftLeft_add_eq_or_of_lt y.isLt, Nat.shiftLeft_eq]

/-- A low commit keeps the high half of `FREQ`, in numbers (R51, R168). -/
theorem committed_low_toNat (d stage : Byte) (freq : Word) :
    (committed .low d stage freq).toNat = freq.toNat / 2 ^ 16 * 2 ^ 16 + (d.toNat * 2 ^ 8 + stage.toNat) := by
  have hhigh : freq.toNat / 2 ^ 16 % 2 ^ 16 = freq.toNat / 2 ^ 16 := by omega
  simp only [committed, toNat_append_eq_add, BitVec.extractLsb'_toNat, Nat.shiftRight_eq_div_pow, hhigh]

/-- A high commit keeps the low half of `FREQ`, in numbers (R51, R168). -/
theorem committed_high_toNat (d stage : Byte) (freq : Word) :
    (committed .high d stage freq).toNat = (d.toNat * 2 ^ 8 + stage.toNat) * 2 ^ 16 + freq.toNat % 2 ^ 16 := by
  simp only [committed, toNat_append_eq_add, BitVec.extractLsb'_toNat, Nat.shiftRight_zero]

/-- Settles O22: a commit is the committed word, read in numbers. -/
theorem commitFrames : Obligations.CommitFrames := by
  intro s d
  rw [← committed_low_toNat, ← committed_high_toNat, BitVec.ofNat_toNat, BitVec.ofNat_toNat]
  exact ⟨rfl, rfl⟩

/-- A low and then a high commit put the word's four bytes together, whatever `FREQ` was before (R164). -/
theorem committed_high_committed_low (w freq : Word) :
    committed .high (w.extractLsb' 24 8) (w.extractLsb' 16 8)
      (committed .low (w.extractLsb' 8 8) (w.extractLsb' 0 8) freq) = w := by
  apply BitVec.eq_of_toNat_eq
  rw [committed_high_toNat, committed_low_toNat]
  simp only [BitVec.extractLsb'_toNat, Nat.shiftRight_eq_div_pow]
  omega

/-! ### The start of each sequence -/

/-- `TAG ∥ w[7:0]` in numbers (R63, R64). -/
theorem tagged_low_byte (tag : Byte) (w : Word) :
    tagged tag (w.extractLsb' 0 8) = BitVec.ofNat 16 (tag.toNat * 256 + w.toNat % 256) := by
  have hframe : (tagged tag (w.extractLsb' 0 8)).toNat = tag.toNat * 256 + w.toNat % 256 := by
    simp only [tagged, toNat_append_eq_add, BitVec.extractLsb'_toNat, Nat.shiftRight_zero, Nat.reducePow]
  rw [← hframe, BitVec.ofNat_toNat, BitVec.setWidth_eq]

/-- Settles O17, by everything that step F0 writes. -/
theorem serXferStart : Obligations.SerXferStart := by
  intro s f hidle
  calc exec (.serXfer16 f) s
    _ = .next (s.beginOp.startFrame (.raw f) 0) := whenIdle_of_idle hidle _
    _ = _ := by rw [startFrame_eq]; rfl

/-- Settles O18: the mark of R204, and then everything that step F0 writes. -/
theorem ddsWriteStart : Obligations.DdsWriteStart := by
  intro s w hidle
  calc exec (.ddsWriteTw w) s
    _ = .next (s.beginOp.checkReady.startFrame (.write w) 0) := whenIdle_of_idle hidle _
    _ = _ := by rw [startFrame_eq, checkReady_eq, ← tagged_low_byte]; rfl

/-- Settles O19, by everything that step F0 writes. -/
theorem ddsInitStart : Obligations.DdsInitStart := by
  intro s hidle
  calc exec .ddsInit s
    _ = .next (s.beginOp.startFrame .init 0) := whenIdle_of_idle hidle _
    _ = _ := by rw [startFrame_eq]; rfl

/-! ### The atomic steps of a frame -/

theorem step_of_block {s : State} {rest : List Move} (hcfg : configOk s.cfg = true)
    (hagenda : s.agenda = .block :: rest) : step s = blockStep (s.withAgenda rest) := by
  simp [step, guarded, nextMove, takeMove, hcfg, hagenda]

theorem blockStep_of_sending {s : State} {t : Transfer} {p : Phase} (hop : s.opstate = .sending t p) :
    blockStep s = sendStep t p s := by
  simp [blockStep, hop]

theorem dataStep_eq (t : Transfer) (k : Nat) (i : BitVec 4) (s : State) :
    s.dataStep t k i =
      { s with
        bitidx := i, sdata := s.shift.getLsbD i.toNat, trace := s.trace ++ [(.sdata, s.shift.getLsbD i.toNat)]
        opstate := .sending t (.clkLow k) } := rfl

theorem clkLowStep_eq (t : Transfer) (k : Nat) (s : State) :
    s.clkLowStep t k =
      { s with sclk := false, trace := s.trace ++ [(.sclk, false)], opstate := .sending t (.clkHigh k) } := rfl

/-- What a receiver records at a clock edge: `SDATA` behind the bits it holds (R167). -/
theorem record_eq_shiftConcat (r : Half) (b : Bool) :
    (r <<< 1) ||| (BitVec.ofBool b).zeroExtend 16 = r.shiftConcat b := by
  apply BitVec.eq_of_getLsbD_eq
  intro i hi
  by_cases hzero : i = 0 <;> simp [BitVec.getLsbD_shiftConcat, hzero]

theorem clkHighStep_eq (t : Transfer) (k : Nat) {s : State} (hfsync : s.fsyncN = false) (hlow : s.sclk = false) :
    s.clkHighStep t k =
      { s with
        sclk := true, trace := s.trace ++ [(.sclk, true)], rx := s.rx.shiftConcat s.sdata
        opstate := .sending t (phaseAfterBit k s.bitidx) } := by
  rw [← record_eq_shiftConcat]
  simp [State.clkHighStep, State.drive, State.goto, State.logPin, rxAfterClock, hfsync, hlow]

theorem shiftConcat_eq_ofNat (r : Half) (b : Bool) : r.shiftConcat b = BitVec.ofNat 16 (r.toNat * 2 + b.toNat) := by
  apply BitVec.eq_of_toNat_eq
  rw [BitVec.toNat_shiftConcat, BitVec.toNat_ofNat, Nat.shiftLeft_eq, pow_one]

/-- Settles O29, step by step of a bit. -/
theorem frameStepsDriveOnePin : Obligations.FrameStepsDriveOnePin := by
  intro s tr k i rest hcfg hagenda
  have hblock {p} (hop : s.opstate = .sending tr p) : step s = sendStep tr p (s.withAgenda rest) :=
    (step_of_block hcfg hagenda).trans (blockStep_of_sending hop)
  refine ⟨hblock, hblock, fun hop hfsync hlow => ?_⟩
  rw [hblock hop, ← shiftConcat_eq_ofNat]
  exact congrArg _ (clkHighStep_eq tr k (s := s.withAgenda rest) hfsync hlow)

/-! ### The end of a frame -/

theorem decodeFrame_endFramePins (s : State) :
    decodeFrame s.endFramePins.cfg s.endFramePins.rx = decodeFrame s.cfg s.rx := by
  rw [endFramePins_eq]

theorem receiveFrame_of_decodes {s : State} {i : Instr} (h : decodeFrame s.cfg s.rx = .ok i) :
    receiveFrame s = exec i s := by
  simp [receiveFrame, h]

theorem receiveFrame_of_no_kind {s : State} {e : DecodeError} (h : decodeFrame s.cfg s.rx = .error e) :
    receiveFrame s = .next s.scrambleReader := by
  simp [receiveFrame, h]

/-- Settles O7: the frame's end is a block step, in which the reader takes the frame it has recorded. -/
theorem frameEndRunsTheReceivedFrame : Obligations.FrameEndRunsTheReceivedFrame := by
  intro s tr k rest hcfg hop hagenda
  have hstep : step s = andThen (receiveFrame (s.withAgenda rest).endFramePins) (State.afterFrame tr k) :=
    step_of_frameEnd hcfg hop hagenda
  have hdecode := decodeFrame_endFramePins (s.withAgenda rest)
  refine ⟨fun i hi => ?_, fun hnone => ⟨s.draws, ?_⟩⟩
  · obtain ⟨st, fr, d, hexec⟩ := exec_frame (decodeFrame_is_frame hi) (s.withAgenda rest).endFramePins
    exact ⟨_, hexec, by rw [hstep, receiveFrame_of_decodes (hdecode.trans hi), hexec, andThen_next]⟩
  · have hdraws : (s.withAgenda rest).endFramePins.draws = s.draws := by rw [endFramePins_eq]; rfl
    rw [hstep, receiveFrame_of_no_kind (hdecode.trans hnone), andThen_next, State.scrambleReader, hdraws]
    rfl

/-! ### The bits of a frame -/

/-- The events of the bits `n` to 0 of a frame (R161). -/
def bitsTrace (f : Half) : Nat → List PinEvent
  | 0 => bitTrace f 0
  | n + 1 => bitTrace f (n + 1) ++ bitsTrace f n

theorem flatMap_bitTrace_eq_bitsTrace (f : Half) (n : Nat) :
    (List.range (n + 1)).flatMap (fun j => bitTrace f (n - j)) = bitsTrace f n := by
  induction n with
  | zero => simp [bitsTrace]
  | succ n ih =>
    rw [List.range_succ_eq_map, List.flatMap_cons, List.flatMap_map, bitsTrace, ← ih]
    simp

theorem frameTrace_eq (f : Half) : frameTrace f = (.fsyncN, false) :: bitsTrace f 15 ++ [(.fsyncN, true)] := by
  rw [frameTrace, flatMap_bitTrace_eq_bitsTrace]

/-- The bits above `n`, with bit `n` recorded behind them, are the bits from `n` up. -/
theorem shiftConcat_getLsbD (f : Half) (n : Nat) : (f >>> (n + 1)).shiftConcat (f.getLsbD n) = f >>> n := by
  apply BitVec.eq_of_getLsbD_eq
  intro i hi
  rw [BitVec.getLsbD_shiftConcat]
  cases i with
  | zero => simp
  | succ i =>
    have hcomm : n + 1 + i = n + (i + 1) := by omega
    simp [hi, hcomm]

/-! ### A receiver at either clock edge -/

/-- Whichever edge it records at, a receiver has one more bit after the three events of a bit (R167). -/
theorem foldl_see_bitTrace (edge d : Bool) (bits f : Half) (recovered : List Half) (n : Nat) :
    (bitTrace f n).foldl (Receiver.see edge) ⟨false, true, d, bits, recovered⟩ =
      ⟨false, true, f.getLsbD n, bits.shiftConcat (f.getLsbD n), recovered⟩ := by
  rw [← record_eq_shiftConcat]
  cases edge <;> simp [bitTrace, Receiver.see]

/-- A receiver that holds the bits above `n` holds the whole frame after the bits from `n` down. -/
theorem foldl_see_bitsTrace (edge : Bool) (f : Half) (recovered : List Half) (n : Nat) : ∀ d,
    (bitsTrace f n).foldl (Receiver.see edge) ⟨false, true, d, f >>> (n + 1), recovered⟩ =
      ⟨false, true, f.getLsbD 0, f, recovered⟩ := by
  induction n with
  | zero =>
    intro d
    rw [bitsTrace, foldl_see_bitTrace, shiftConcat_getLsbD, BitVec.ushiftRight_zero]
  | succ n ih =>
    intro d
    rw [bitsTrace, List.foldl_append, foldl_see_bitTrace, shiftConcat_getLsbD, ih]

/-- Settles O28: `FSYNC_N` falls on an empty record, the sixteen bits fill it, and `FSYNC_N` rises on the frame. -/
theorem frameRecoveredAtEitherEdge : Obligations.FrameRecoveredAtEitherEdge := by
  intro f edge
  have hempty : f >>> 16 = 0 := BitVec.ushiftRight_eq_zero (le_refl 16)
  have hbits : (bitsTrace f 15).foldl (Receiver.see edge) ⟨false, true, false, 0, []⟩ =
      ⟨false, true, f.getLsbD 0, f, []⟩ :=
    hempty ▸ foldl_see_bitsTrace edge f [] 15 false
  calc recoverFrames edge (frameTrace f)
    _ = (([(.fsyncN, true)] : List PinEvent).foldl (Receiver.see edge)
          ((bitsTrace f 15).foldl (Receiver.see edge) ⟨false, true, false, 0, []⟩)).recovered := by
      rw [← List.foldl_append, frameTrace_eq]; rfl
    _ = [f] := by rw [hbits]; rfl

/-! ### A frame sequence left to itself -/

/-- A machine that starts (R8), at rest outside a frame, with no move listed: nothing disturbs its frame sequence. -/
structure Undisturbed (s : State) : Prop extends AtRest s where
  configured : configOk s.cfg = true
  alone : s.agenda = []

theorem step_of_alone {s : State} (hcfg : configOk s.cfg = true) (halone : s.agenda = [])
    (hop : s.opstate ≠ .classifying) : step s = blockStep s := by
  unfold step guarded nextMove progress blockStep
  cases ho : s.opstate with
  | classifying => exact absurd ho hop
  | idle | sending | relaying => simp [hcfg, halone]

theorem step_of_alone_sending {s : State} {t : Transfer} {p : Phase} (hcfg : configOk s.cfg = true)
    (halone : s.agenda = []) (hop : s.opstate = .sending t p) : step s = sendStep t p s :=
  (step_of_alone hcfg halone (by simp [hop])).trans (blockStep_of_sending hop)

theorem steps_one (s : State) : steps 1 s = step s := by
  simp only [steps]
  split <;> simp_all

/-- The state after bit `i` of a frame has been driven and recorded (R161, R167). -/
def State.sendBit (t : Transfer) (k : Nat) (i : BitVec 4) (s : State) : State :=
  { s with
    bitidx := i, sdata := s.shift.getLsbD i.toNat, rx := s.rx.shiftConcat (s.shift.getLsbD i.toNat)
    trace := s.trace ++ bitTrace s.shift i.toNat, opstate := .sending t (phaseAfterBit k i) }

theorem bitSteps_eq {s : State} {t : Transfer} {k : Nat} {i : BitVec 4} (hfsync : s.fsyncN = false)
    (hclock : s.sclk = true) : ((s.dataStep t k i).clkLowStep t k).clkHighStep t k = s.sendBit t k i := by
  simp [State.sendBit, State.dataStep, State.clkLowStep, State.clkHighStep, State.drive, State.goto, State.logPin,
    rxAfterClock, record_eq_shiftConcat, bitTrace, hfsync, hclock]

@[simp] theorem State.dataStep_opstate (t : Transfer) (k : Nat) (i : BitVec 4) (s : State) :
    (s.dataStep t k i).opstate = .sending t (.clkLow k) := rfl
@[simp] theorem State.dataStep_agenda (t : Transfer) (k : Nat) (i : BitVec 4) (s : State) :
    (s.dataStep t k i).agenda = s.agenda := rfl
@[simp] theorem State.clkLowStep_opstate (t : Transfer) (k : Nat) (s : State) :
    (s.clkLowStep t k).opstate = .sending t (.clkHigh k) := rfl
@[simp] theorem State.clkLowStep_agenda (t : Transfer) (k : Nat) (s : State) :
    (s.clkLowStep t k).agenda = s.agenda := rfl

/-- The three steps of a bit (R161). -/
theorem steps_sendBit {s : State} {t : Transfer} {k : Nat} {i : BitVec 4} (hcfg : configOk s.cfg = true)
    (halone : s.agenda = []) (hfsync : s.fsyncN = false) (hclock : s.sclk = true)
    (hop : s.opstate = .sending t (.data k i)) : steps 3 s = .next (s.sendBit t k i) := by
  have hdata : step s = .next (s.dataStep t k i) := step_of_alone_sending hcfg halone hop
  have hlow : step (s.dataStep t k i) = .next ((s.dataStep t k i).clkLowStep t k) :=
    step_of_alone_sending (by simpa using hcfg) (by simpa using halone) (State.dataStep_opstate t k i s)
  have hhigh : step ((s.dataStep t k i).clkLowStep t k) =
      .next (((s.dataStep t k i).clkLowStep t k).clkHighStep t k) :=
    step_of_alone_sending (by simpa using hcfg) (by simpa using halone) (State.clkLowStep_opstate t k _)
  rw [steps_succ_of_next hdata, steps_succ_of_next hlow, steps_succ_of_next hhigh, steps_zero,
    bitSteps_eq hfsync hclock]

/-- The state when the bits of a frame from `n` down have been driven and recorded (R161, R167). -/
def State.sendBits (t : Transfer) (k n : Nat) (s : State) : State :=
  { s with
    bitidx := 0, sdata := s.shift.getLsbD 0, rx := s.shift, trace := s.trace ++ bitsTrace s.shift n
    opstate := .sending t (.fEnd k) }

theorem phaseAfterBit_succ (k : Nat) {n : Nat} (hn : n + 1 < 16) :
    phaseAfterBit k (BitVec.ofNat 4 (n + 1)) = .data k (BitVec.ofNat 4 n) := by
  have hne : BitVec.ofNat 4 (n + 1) ≠ 0 := by bv_omega
  have hpred : BitVec.ofNat 4 (n + 1) - 1 = BitVec.ofNat 4 n := by bv_omega
  rw [phaseAfterBit, if_neg hne, hpred]

/-- With the bits above `n` recorded, the steps of the bits from `n` down record the whole frame. -/
theorem steps_sendBits {t : Transfer} {k : Nat} (n : Nat) : ∀ {s : State}, n < 16 → configOk s.cfg = true →
    s.agenda = [] → s.fsyncN = false → s.sclk = true → s.opstate = .sending t (.data k (BitVec.ofNat 4 n)) →
    s.rx = s.shift >>> (n + 1) → steps (3 * (n + 1)) s = .next (s.sendBits t k n) := by
  induction n with
  | zero =>
    intro s _ hcfg halone hfsync hclock hop hrx
    have hlast := shiftConcat_getLsbD s.shift 0
    rw [BitVec.ushiftRight_zero, ← hrx] at hlast
    rw [steps_sendBit hcfg halone hfsync hclock hop]
    simpa [State.sendBit, State.sendBits, bitsTrace, phaseAfterBit] using hlast
  | succ n ih =>
    intro s hn hcfg halone hfsync hclock hop hrx
    have hindex : (BitVec.ofNat 4 (n + 1)).toNat = n + 1 := by bv_omega
    have hbit := steps_sendBit hcfg halone hfsync hclock hop
    have hnext : (s.sendBit t k (BitVec.ofNat 4 (n + 1))).rx = s.shift >>> (n + 1) := by
      rw [State.sendBit, hindex, hrx, shiftConcat_getLsbD]
    have hphase := congrArg (OpState.sending t) (phaseAfterBit_succ k hn)
    have hrest := ih (s := s.sendBit t k (BitVec.ofNat 4 (n + 1))) (by omega) hcfg halone hfsync hclock hphase hnext
    calc steps (3 * (n + 1 + 1)) s
      _ = steps (3 + 3 * (n + 1)) s := by congr 1; omega
      _ = steps (3 * (n + 1)) (s.sendBit t k (BitVec.ofNat 4 (n + 1))) := steps_add hbit
      _ = .next ((s.sendBit t k (BitVec.ofNat 4 (n + 1))).sendBits t k n) := hrest
      _ = .next (s.sendBits t k (n + 1)) := by simp [State.sendBits, State.sendBit, bitsTrace, hindex]

/-- A machine at rest, but for the reader and what comes next, after frame `k` of a sequence has gone over the bus
(R161). -/
def State.carry (t : Transfer) (k : Nat) (s : State) : State :=
  { s with
    imaskSaved := false, shift := frameAt s.cfg t k, frame := frameIndexAt t k s.frame, bitidx := 0
    sdata := (frameAt s.cfg t k).getLsbD 0, rx := frameAt s.cfg t k
    trace := s.trace ++ frameTrace (frameAt s.cfg t k), opstate := .sending t (.fEnd k) }

theorem endFramePins_of_none_pending {s : State} (h : s.pend = false) :
    s.endFramePins = { s with fsyncN := true, trace := s.trace ++ [(.fsyncN, true)], imask := s.imaskSaved } := by
  simp [State.endFramePins, State.setImask, State.edgeService, State.drive, State.logPin, h]

/-- The pins and the mask over a whole frame: its bits between the two changes of `FSYNC_N` (R161). -/
theorem Undisturbed.endFramePins_eq_carry {s : State} (h : Undisturbed s) (t : Transfer) (k : Nat) :
    ((s.startFrame t k).sendBits t k 15).endFramePins = s.carry t k := by
  have hpend : ((s.startFrame t k).sendBits t k 15).pend = false := by
    simp [State.sendBits, startFrame_eq, h.nonePending]
  rw [endFramePins_of_none_pending hpend, startFrame_eq]
  simp [State.sendBits, State.carry, frameTrace_eq, ← h.maskOpen, ← h.fsyncHigh]

/-- After step F0 of a frame its other 49 steps end it: the reader takes the frame that was loaded (R161, R167). -/
theorem Undisturbed.steps_frame {s : State} (h : Undisturbed s) (t : Transfer) (k : Nat) :
    steps 49 (s.startFrame t k) = andThen (receiveFrame (s.carry t k)) (State.afterFrame t k) := by
  have hbits : steps 48 (s.startFrame t k) = .next ((s.startFrame t k).sendBits t k 15) := by
    rw [startFrame_eq]
    refine steps_sendBits 15 (by decide) h.configured h.alone rfl h.clockHigh rfl ?_
    exact (if_pos h.fsyncHigh).trans (BitVec.ushiftRight_eq_zero (le_refl 16)).symm
  have hend : step ((s.startFrame t k).sendBits t k 15) = endFrame t k ((s.startFrame t k).sendBits t k 15) := by
    have hkeeps : (s.startFrame t k).cfg = s.cfg ∧ (s.startFrame t k).agenda = s.agenda := by simp [startFrame_eq]
    obtain ⟨hcfg, hagenda⟩ := hkeeps
    exact step_of_alone_sending (s := (s.startFrame t k).sendBits t k 15) (p := .fEnd k) (hcfg ▸ h.configured)
      (hagenda.trans h.alone) rfl
  calc steps 49 (s.startFrame t k)
    _ = steps 1 ((s.startFrame t k).sendBits t k 15) := steps_add (m := 1) hbits
    _ = step ((s.startFrame t k).sendBits t k 15) := steps_one _
    _ = andThen (receiveFrame (s.carry t k)) (State.afterFrame t k) := by
      rw [hend, endFrame, h.endFramePins_eq_carry]

/-! ### What the chip reader makes of a frame -/

/-- Under `c` the chip reader takes the frame `f` by the update `g` of its registers (R168). -/
def Receives (c : Config) (f : Half) (g : State → State) : Prop :=
  ∀ s : State, s.cfg = c → s.rx = f → receiveFrame s = .next (g s)

theorem receives_of_decodes {c : Config} {f : Half} {i : Instr} {g : State → State} (hdec : decodeFrame c f = .ok i)
    (hexec : ∀ s, exec i s = .next (g s)) : Receives c f g := by
  rintro s rfl rfl
  rw [receiveFrame_of_decodes hdec, hexec]

/-- R8 with different tags within each half: the four tags are four different bytes (R64, R165; log entry 5). -/
structure TagsApart (c : Config) : Prop where
  configured : configOk c = true
  low : c.tag0 ≠ c.tag1
  high : c.tag2 ≠ c.tag3

/-- Where the tags are told apart, the reader takes the four frames of a word as they are meant (R164, R168). -/
theorem TagsApart.receives_twFrame {c : Config} (h : TagsApart c) (w : Word) :
    Receives c (twFrame c w 0) (State.stageByte (w.extractLsb' 0 8))
      ∧ Receives c (twFrame c w 1) (State.commitHalf .low (w.extractLsb' 8 8))
      ∧ Receives c (twFrame c w 2) (State.stageByte (w.extractLsb' 16 8))
      ∧ Receives c (twFrame c w 3) (State.commitHalf .high (w.extractLsb' 24 8)) := by
  obtain ⟨-, -, -, h02, h03, h12, h13⟩ := (configOk_iff c).1 h.configured
  have hdec1 : decodeFrame c (twFrame c w 1) = .ok (.frameWrite16Low (w.extractLsb' 8 8)) := by
    simp [decodeFrame, twFrame, h.low.symm]
  have hdec2 : decodeFrame c (twFrame c w 2) = .ok (.frameDefer8High (w.extractLsb' 16 8)) := by
    simp [decodeFrame, twFrame, h02.symm, h12.symm]
  have hdec3 : decodeFrame c (twFrame c w 3) = .ok (.frameWrite16High (w.extractLsb' 24 8)) := by
    simp [decodeFrame, twFrame, h03.symm, h13.symm, h.high.symm]
  exact ⟨receives_of_decodes (decodeFrame_tag0 c _) fun _ => rfl, receives_of_decodes hdec1 fun _ => rfl,
    receives_of_decodes hdec2 fun _ => rfl, receives_of_decodes hdec3 fun _ => rfl⟩

/-! ### Frame after frame -/

section
variable (t : Transfer) (k : Nat) (s : State)

@[simp] theorem State.carry_frame :
    (s.carry t k).cfg = s.cfg ∧ (s.carry t k).agenda = s.agenda ∧ (s.carry t k).res = s.res
      ∧ (s.carry t k).resValid = s.resValid ∧ (s.carry t k).relay = s.relay ∧ (s.carry t k).ddsReady = s.ddsReady
      ∧ (s.carry t k).fault = s.fault ∧ (s.carry t k).stage = s.stage ∧ (s.carry t k).freq = s.freq
      ∧ (s.carry t k).fsyncN = s.fsyncN ∧ (s.carry t k).sclk = s.sclk :=
  ⟨rfl, rfl, rfl, rfl, rfl, rfl, rfl, rfl, rfl, rfl, rfl⟩

@[simp] theorem State.carry_trace : (s.carry t k).trace = s.trace ++ frameTrace (frameAt s.cfg t k) := rfl

end

section
variable {s : State} (h : Undisturbed s)
include h

theorem Undisturbed.carry (t : Transfer) (k : Nat) : Undisturbed (s.carry t k) := { h with }
theorem Undisturbed.stageByte (d : Byte) : Undisturbed (s.stageByte d) := { h with }
theorem Undisturbed.commitHalf (half : FreqHalf) (d : Byte) : Undisturbed (s.commitHalf half d) := { h with }
theorem Undisturbed.scrambleReader : Undisturbed s.scrambleReader := { h with }

/-- After step F0 of a frame its other 49 steps end it, as the reader takes it (R161, R168). -/
theorem Undisturbed.frame_ends {t : Transfer} {k : Nat} {g : State → State}
    (hframe : Receives s.cfg (frameAt s.cfg t k) g) :
    steps 49 (s.startFrame t k) = .next (State.afterFrame t k (g (s.carry t k))) := by
  rw [h.steps_frame, hframe (s.carry t k) rfl rfl, andThen_next]

/-- Between two frames of a sequence the next block step is step F0 of the later one (R161). -/
theorem Undisturbed.step_gap {t : Transfer} {k : Nat} (hk : k < lastFrame t) :
    step (s.afterFrame t k) = .next (s.startFrame t (k + 1)) := by
  have hgap : s.afterFrame t k = s.goto t (.gap (k + 1)) := if_pos hk
  have hF0 : (s.goto t (.gap (k + 1))).startFrame t (k + 1) = s.startFrame t (k + 1) := by
    rw [startFrame_eq, startFrame_eq]; rfl
  rw [hgap, step_of_alone_sending (s := s.goto t (.gap (k + 1))) h.configured h.alone rfl, sendStep, hF0]

/-- What comes up to the end of a frame goes on with step F0 of the next one. -/
theorem Undisturbed.steps_gap {t : Transfer} {k n m : Nat} {s₀ : State} (hk : k < lastFrame t)
    (hsteps : steps n s₀ = .next (s.afterFrame t k)) : steps (n + 1 + m) s₀ = steps m (s.startFrame t (k + 1)) := by
  calc steps (n + 1 + m) s₀
    _ = steps (n + (m + 1)) s₀ := by congr 1; omega
    _ = steps (m + 1) (s.afterFrame t k) := steps_add hsteps
    _ = steps m (s.startFrame t (k + 1)) := steps_succ_of_next (h.step_gap hk) m

end

/-- The state after the two frames, from frame `k` on, that write one half of `FREQ` (R163, R164). -/
def State.sendHalf (half : FreqHalf) (stage d : Byte) (t : Transfer) (k : Nat) (s : State) : State :=
  (((s.carry t k).stageByte stage).carry t (k + 1)).commitHalf half d

theorem Undisturbed.sendHalf {s : State} (h : Undisturbed s) (half : FreqHalf) (stage d : Byte) (t : Transfer)
    (k : Nat) : Undisturbed (s.sendHalf half stage d t k) :=
  (((h.carry t k).stageByte stage).carry t (k + 1)).commitHalf half d

@[simp] theorem State.sendHalf_frame (half : FreqHalf) (stage d : Byte) (t : Transfer) (k : Nat) (s : State) :
    (s.sendHalf half stage d t k).cfg = s.cfg ∧ (s.sendHalf half stage d t k).res = s.res
      ∧ (s.sendHalf half stage d t k).resValid = s.resValid ∧ (s.sendHalf half stage d t k).relay = s.relay
      ∧ (s.sendHalf half stage d t k).ddsReady = s.ddsReady ∧ (s.sendHalf half stage d t k).fault = s.fault := by
  simp [State.sendHalf]

@[simp] theorem State.sendHalf_freq (half : FreqHalf) (stage d : Byte) (t : Transfer) (k : Nat) (s : State) :
    (s.sendHalf half stage d t k).freq = committed half d stage s.freq := rfl

@[simp] theorem State.sendHalf_trace (half : FreqHalf) (stage d : Byte) (t : Transfer) (k : Nat) (s : State) :
    (s.sendHalf half stage d t k).trace =
      s.trace ++ (frameTrace (frameAt s.cfg t k) ++ frameTrace (frameAt s.cfg t (k + 1))) := by
  simp [State.sendHalf]

/-- A staging frame and a commit frame, up to the end of the second (R164). -/
theorem Undisturbed.steps_sendHalf {s : State} (h : Undisturbed s) {half : FreqHalf} {stage d : Byte} {t : Transfer}
    {k : Nat} (hk : k < lastFrame t) (hstage : Receives s.cfg (frameAt s.cfg t k) (State.stageByte stage))
    (hcommit : Receives s.cfg (frameAt s.cfg t (k + 1)) (State.commitHalf half d)) :
    steps 99 (s.startFrame t k) = .next ((s.sendHalf half stage d t k).afterFrame t (k + 1)) := by
  have hstaged : Undisturbed ((s.carry t k).stageByte stage) := (h.carry t k).stageByte stage
  calc steps 99 (s.startFrame t k)
    _ = steps 49 (((s.carry t k).stageByte stage).startFrame t (k + 1)) :=
      hstaged.steps_gap (m := 49) hk (h.frame_ends hstage)
    _ = .next ((s.sendHalf half stage d t k).afterFrame t (k + 1)) := hstaged.frame_ends hcommit

/-- The low half of a word: its frames 0 and 1 (R163). -/
def State.sendLow (w : Word) (t : Transfer) (k : Nat) (s : State) : State :=
  s.sendHalf .low (w.extractLsb' 0 8) (w.extractLsb' 8 8) t k

/-- The state after the four frames of `write_tw(w)`, from frame `k` of the sequence on (R163). -/
def State.sendWord (w : Word) (t : Transfer) (k : Nat) (s : State) : State :=
  (s.sendLow w t k).sendHalf .high (w.extractLsb' 16 8) (w.extractLsb' 24 8) t (k + 2)

/-- From frame `k` on the sequence sends the four frames of `w`, which the reader can tell apart (R163 to R166). -/
structure SendsWord (c : Config) (t : Transfer) (k : Nat) (w : Word) : Prop where
  tagsApart : TagsApart c
  frames : ∀ j < 4, frameAt c t (k + j) = twFrame c w j
  within : k + 3 ≤ lastFrame t

section
variable {s : State} {t : Transfer} {k : Nat} {w : Word} (h : Undisturbed s) (hword : SendsWord s.cfg t k w)
include h hword

theorem Undisturbed.steps_sendLow : steps 99 (s.startFrame t k) = .next ((s.sendLow w t k).afterFrame t (k + 1)) := by
  obtain ⟨hstage, hcommit, -, -⟩ := hword.tagsApart.receives_twFrame w
  rw [← hword.frames 0 (by decide)] at hstage
  rw [← hword.frames 1 (by decide)] at hcommit
  have hwithin := hword.within
  exact h.steps_sendHalf (by omega) hstage hcommit

theorem Undisturbed.steps_sendWord :
    steps 199 (s.startFrame t k) = .next ((s.sendWord w t k).afterFrame t (k + 3)) := by
  obtain ⟨-, -, hstage, hcommit⟩ := hword.tagsApart.receives_twFrame w
  rw [← hword.frames 2 (by decide)] at hstage
  rw [← hword.frames 3 (by decide)] at hcommit
  have hwithin := hword.within
  have hlow : Undisturbed (s.sendLow w t k) := h.sendHalf _ _ _ t k
  have hcfg : (s.sendLow w t k).cfg = s.cfg := (s.sendHalf_frame _ _ _ t k).1
  calc steps 199 (s.startFrame t k)
    _ = steps 99 ((s.sendLow w t k).startFrame t (k + 2)) :=
      hlow.steps_gap (m := 99) (by omega) (h.steps_sendLow hword)
    _ = .next ((s.sendWord w t k).afterFrame t (k + 3)) :=
      hlow.steps_sendHalf (by omega) (hcfg ▸ hstage) (hcfg ▸ hcommit)

omit h in
theorem sendWord_trace : (s.sendWord w t k).trace = s.trace ++ writeTrace s.cfg w := by
  have h0 := hword.frames 0 (by decide)
  have h1 := hword.frames 1 (by decide)
  have h2 := hword.frames 2 (by decide)
  have h3 := hword.frames 3 (by decide)
  simp only [add_zero] at h0
  simp [State.sendWord, State.sendLow, writeTrace, add_assoc, h0, h1, h2, h3]

end

@[simp] theorem State.sendLow_freq (w : Word) (t : Transfer) (k : Nat) (s : State) :
    (s.sendLow w t k).freq = committed .low (w.extractLsb' 8 8) (w.extractLsb' 0 8) s.freq := rfl

/-- After the four frames the reader holds the word, whatever it held before (R164). -/
@[simp] theorem State.sendWord_freq (w : Word) (t : Transfer) (k : Nat) (s : State) : (s.sendWord w t k).freq = w :=
  committed_high_committed_low w s.freq

@[simp] theorem State.sendWord_frame (w : Word) (t : Transfer) (k : Nat) (s : State) :
    (s.sendWord w t k).cfg = s.cfg ∧ (s.sendWord w t k).res = s.res
      ∧ (s.sendWord w t k).resValid = s.resValid ∧ (s.sendWord w t k).relay = s.relay
      ∧ (s.sendWord w t k).ddsReady = s.ddsReady ∧ (s.sendWord w t k).fault = s.fault := by
  simp [State.sendWord, State.sendLow]

theorem Undisturbed.sendWord {s : State} (h : Undisturbed s) (w : Word) (t : Transfer) (k : Nat) :
    Undisturbed (s.sendWord w t k) :=
  (h.sendHalf _ _ _ t k).sendHalf _ _ _ t (k + 2)

/-! ### The other agents beside a frame sequence -/

/-- A state without what the environment, a read of `RES` or the moves to come can reach while no classification runs:
the count and its latch, the input levels, the values read, the mark of an invalid read, the agenda. -/
def State.quiet (s : State) : State :=
  { s with
    acc := 0, pend := false, encALast := false, encA := false, encB := false, btnN := false, reads := []
    fault := { s.fault with resultNotValid := false }, agenda := [] }

theorem quiet_envStep (a b n : Option Bool) (s : State) : (s.envStep a b n).quiet = s.quiet := by
  rw [envStep_eq]
  rfl

theorem quiet_readRes (s : State) : s.readRes.quiet = s.quiet := by
  obtain ⟨-, h⟩ | ⟨-, h⟩ := readRes_cases s <;> rw [h] <;> rfl

theorem quiet_startFrame (t : Transfer) (k : Nat) (s : State) :
    (s.startFrame t k).quiet = s.quiet.startFrame t k := by
  rw [startFrame_eq, startFrame_eq]
  rfl

theorem quiet_clkHighStep (t : Transfer) (k : Nat) (s : State) :
    (s.clkHighStep t k).quiet = s.quiet.clkHighStep t k := by
  simp [State.clkHighStep, State.drive, State.goto, State.logPin, rxAfterClock, State.quiet]

theorem quiet_endFramePins (s : State) : s.endFramePins.quiet = s.quiet.endFramePins := by
  rw [endFramePins_eq, endFramePins_of_none_pending (s := s.quiet) rfl]
  rfl

theorem quiet_afterFrame (t : Transfer) (k : Nat) (s : State) :
    (s.afterFrame t k).quiet = s.quiet.afterFrame t k := by
  unfold State.afterFrame
  split
  · rfl
  · cases t <;> rfl

theorem receiveFrame_quiet {s u : State} (h : receiveFrame s = .next u) : receiveFrame s.quiet = .next u.quiet := by
  cases hdec : decodeFrame s.cfg s.rx with
  | error e =>
    rw [receiveFrame_of_no_kind hdec] at h
    rw [receiveFrame_of_no_kind (s := s.quiet) hdec]
    cases h
    rfl
  | ok i =>
    have hframe := decodeFrame_is_frame hdec
    rw [receiveFrame_of_decodes hdec] at h
    rw [receiveFrame_of_decodes (s := s.quiet) hdec]
    cases i with
    | frameDefer8Low | frameWrite16Low | frameDefer8High | frameWrite16High | frameCmdSrc | frameCmdCtrl =>
      cases h; rfl
    | _ => cases hframe

theorem endFrame_quiet {t : Transfer} {k : Nat} {s u : State} (h : endFrame t k s = .next u) :
    endFrame t k s.quiet = .next u.quiet := by
  obtain ⟨st, fr, d, hreceive⟩ := receiveFrame_next s.endFramePins
  rw [endFrame, hreceive, andThen_next] at h
  cases h
  rw [endFrame, ← quiet_endFramePins, receiveFrame_quiet hreceive, andThen_next, quiet_afterFrame]

/-- The block's own step neither sees nor reaches what the other agents do, but for the service of an edge (R161). -/
theorem blockStep_quiet {s u : State} (h : blockStep s = .next u) : blockStep s.quiet = .next u.quiet := by
  cases hop : s.opstate with
  | idle | classifying =>
    simp only [blockStep, hop] at h
    cases h
    simp [blockStep, State.quiet, hop]
  | relaying a =>
    simp only [blockStep, hop] at h
    cases h
    simp [blockStep, State.quiet, hop, relayStep_eq]
  | sending t p =>
    rw [blockStep_of_sending hop] at h
    rw [blockStep_of_sending (s := s.quiet) hop]
    cases p with
    | gap k => cases h; exact congrArg _ (quiet_startFrame t k s).symm
    | data k i => cases h; rfl
    | clkLow k => cases h; rfl
    | clkHigh k => cases h; exact congrArg _ (quiet_clkHighStep t k s).symm
    | fEnd k => exact endFrame_quiet h

theorem afterFrame_keeps (t : Transfer) (k : Nat) (s : State) :
    (s.afterFrame t k).agenda = s.agenda ∧ (s.afterFrame t k).opstate ≠ .classifying := by
  obtain ⟨-, h⟩ | ⟨-, ⟨_, -, h⟩ | ⟨_, -, h⟩ | ⟨-, h⟩ | ⟨_, _, -, h⟩⟩ := afterFrame_cases t k s <;> simp [h]

/-- The block's own step starts no classification and takes no move (R121, R161). -/
theorem blockStep_keeps {s u : State} (hop : s.opstate ≠ .classifying) (h : blockStep s = .next u) :
    u.cfg = s.cfg ∧ u.agenda = s.agenda ∧ u.opstate ≠ .classifying := by
  unfold blockStep at h
  split at h
  · cases h; exact ⟨rfl, rfl, hop⟩
  · cases h; exact ⟨rfl, rfl, hop⟩
  · next t p _ =>
    cases p with
    | gap k => cases h; simp [startFrame_eq]
    | data k i => cases h; simp
    | clkLow k => cases h; simp
    | clkHigh k => cases h; simp [State.clkHighStep]
    | fEnd k =>
      obtain ⟨st, fr, d, hend⟩ := endFrame_next t k s
      cases hend.symm.trans h
      obtain ⟨hagenda, hclassifying⟩ :=
        afterFrame_keeps t k { s.endFramePins with stage := st, freq := fr, draws := d }
      refine ⟨by simp, hagenda.trans ?_, hclassifying⟩
      rw [endFramePins_eq]
  · cases h; simp [relayStep_eq]

/-- A consistent machine that starts (R8), with no classification in progress. -/
structure Sequencing (s : State) : Prop where
  configured : configOk s.cfg = true
  consistent : Consistent s
  notClassifying : s.opstate ≠ .classifying

theorem sequencing_of_step {s t : State} (hcfg : configOk s.cfg = true) (hcons : Consistent s)
    (hstep : step s = .next t) (hop : t.opstate ≠ .classifying) : Sequencing t := by
  obtain ⟨ms, heffect⟩ := step_effect hstep
  exact ⟨heffect.cfg_eq ▸ hcfg, heffect.consistent hcons, hop⟩

/-- A passing move is a step of the block, or changes nothing of the quiet state. -/
theorem Sequencing.step_passing {s : State} {m : Move} {rest : List Move} (h : Sequencing s) (hm : m.passes = true)
    (hagenda : s.agenda = m :: rest) :
    ∃ t, step s = .next t ∧ Sequencing t ∧ t.agenda = rest ∧ steps ([m].count .block) s.quiet = .next t.quiet := by
  have hbeside {t} (hstep : step s = .next t) (hrest : t.agenda = rest) (hquiet : t.quiet = s.quiet)
      (hne : m ≠ .block) : ∃ t, step s = .next t ∧ Sequencing t ∧ t.agenda = rest
        ∧ steps ([m].count .block) s.quiet = .next t.quiet := by
    have hop : t.opstate = s.opstate := (congrArg State.opstate hquiet :)
    have hnone : [m].count .block = 0 := List.count_eq_zero.2 (by simpa using hne.symm)
    exact ⟨t, hstep, sequencing_of_step h.configured h.consistent hstep (hop ▸ h.notClassifying), hrest,
      by rw [hnone, hquiet, steps_zero]⟩
  cases m with
  | readRes => exact hbeside (step_of_readRes h.configured hagenda) (by simp) (quiet_readRes _) nofun
  | env a b n =>
    exact hbeside (step_of_env h.configured hagenda) (by rw [envStep_eq]; rfl) (quiet_envStep a b n _) nofun
  | timer =>
    have hb : s.bstate = .bIdle := h.consistent.bstate_bIdle h.notClassifying
    have hdropped : (s.withAgenda rest).timerStep = s.withAgenda rest := timerStep_of_bIdle hb
    exact hbeside ((step_of_timer h.configured hagenda).trans (congrArg _ hdropped)) rfl rfl nofun
  | block =>
    obtain ⟨t, hblock⟩ := blockStep_next (s.withAgenda rest)
    have hstep : step s = .next t := (step_of_block h.configured hagenda).trans hblock
    obtain ⟨-, hrest, hop⟩ := blockStep_keeps (s := s.withAgenda rest) h.notClassifying hblock
    have hquiet : step s.quiet = .next t.quiet :=
      (step_of_alone (s := s.quiet) h.configured rfl h.notClassifying).trans
        (blockStep_quiet (s := s.withAgenda rest) hblock)
    exact ⟨t, hstep, sequencing_of_step h.configured h.consistent hstep hop, hrest, steps_succ_of_next hquiet 0⟩
  | host | reset => cases hm

theorem count_block_cons (m : Move) (ms : List Move) :
    (m :: ms).count .block = [m].count .block + ms.count .block :=
  List.count_append (l₁ := [m])

/-- Whatever other agents do between the block's steps, the quiet state goes on as in a sequence left to itself. -/
theorem Sequencing.steps_passing {rest : List Move} : ∀ {ms : List Move} {s : State}, Sequencing s →
    (∀ m ∈ ms, m.passes = true) → s.agenda = ms ++ rest →
    ∃ t, steps ms.length s = .next t ∧ Sequencing t ∧ t.agenda = rest
      ∧ steps (ms.count .block) s.quiet = .next t.quiet
  | [], s, h, _, hagenda => ⟨s, rfl, h, hagenda, rfl⟩
  | m :: ms, s, h, hpass, hagenda => by
    obtain ⟨hm, hms⟩ := List.forall_mem_cons.1 hpass
    obtain ⟨u, hstep, hu, hagenda', hquiet⟩ := h.step_passing hm hagenda
    obtain ⟨t, hsteps, ht, hrest, hquiet'⟩ := hu.steps_passing hms hagenda'
    refine ⟨t, (steps_succ_of_next hstep _).trans hsteps, ht, hrest, ?_⟩
    rw [count_block_cons, steps_add hquiet, hquiet']

/-! ### Inside one frame -/

/-- How many steps of the block are left of the frame in progress, F_END among them; 0 outside a frame (R161). -/
def State.blocksToEnd (s : State) : Nat :=
  match s.opstate with
  | .sending _ (.data _ i) => 3 * i.toNat + 4
  | .sending _ (.clkLow _) => 3 * s.bitidx.toNat + 3
  | .sending _ (.clkHigh _) => 3 * s.bitidx.toNat + 2
  | .sending _ (.fEnd _) => 1
  | .sending _ (.gap _) => 0
  | .idle => 0
  | .classifying => 0
  | .relaying _ => 0

section
variable {s : State} {t : Transfer} {k : Nat} {i : BitVec 4}

theorem blocksToEnd_of_data (h : s.opstate = .sending t (.data k i)) : s.blocksToEnd = 3 * i.toNat + 4 := by
  simp [State.blocksToEnd, h]
theorem blocksToEnd_of_clkLow (h : s.opstate = .sending t (.clkLow k)) :
    s.blocksToEnd = 3 * s.bitidx.toNat + 3 := by
  simp [State.blocksToEnd, h]
theorem blocksToEnd_of_clkHigh (h : s.opstate = .sending t (.clkHigh k)) :
    s.blocksToEnd = 3 * s.bitidx.toNat + 2 := by
  simp [State.blocksToEnd, h]
theorem blocksToEnd_of_fEnd (h : s.opstate = .sending t (.fEnd k)) : s.blocksToEnd = 1 := by
  simp [State.blocksToEnd, h]

end

theorem blocksToEnd_pos_iff (s : State) : 0 < s.blocksToEnd ↔ inFrame s.opstate = true := by
  unfold State.blocksToEnd inFrame
  split <;> simp_all

theorem blocksToEnd_of_not_inFrame {s : State} (h : inFrame s.opstate = false) : s.blocksToEnd = 0 :=
  Nat.eq_zero_of_not_pos (by simp [blocksToEnd_pos_iff, h])

/-- One step is left of a frame only at step F_END. -/
theorem fEnd_of_blocksToEnd_eq_one {s : State} (h : s.blocksToEnd = 1) : ∃ t k, s.opstate = .sending t (.fEnd k) := by
  unfold State.blocksToEnd at h
  split at h
  case h_4 hop => exact ⟨_, _, hop⟩
  all_goals omega

/-- Each step of the block brings the frame one step nearer to its end, and before the end the reader's `FREQ` stays
(R161, R226). -/
theorem blockStep_within_frame {s u : State} (hframe : inFrame s.opstate = true) (h : blockStep s = .next u) :
    u.blocksToEnd + 1 = s.blocksToEnd ∧ (0 < u.blocksToEnd → u.freq = s.freq) := by
  cases hop : s.opstate with
  | idle | classifying | relaying => simp [hop, inFrame] at hframe
  | sending t p =>
    rw [blockStep_of_sending hop] at h
    cases p with
    | gap k => simp [hop, inFrame] at hframe
    | data k i =>
      cases h
      rw [blocksToEnd_of_data hop, blocksToEnd_of_clkLow (State.dataStep_opstate t k i s)]
      exact ⟨rfl, fun _ => by simp [dataStep_eq]⟩
    | clkLow k =>
      cases h
      rw [blocksToEnd_of_clkLow hop, blocksToEnd_of_clkHigh (State.clkLowStep_opstate t k s)]
      exact ⟨rfl, fun _ => by simp [clkLowStep_eq]⟩
    | clkHigh k =>
      cases h
      refine ⟨?_, fun _ => by simp [State.clkHighStep]⟩
      have hnext : (s.clkHighStep t k).opstate = .sending t (phaseAfterBit k s.bitidx) := rfl
      rw [blocksToEnd_of_clkHigh hop]
      by_cases hlast : s.bitidx = 0
      · rw [phaseAfterBit, if_pos hlast] at hnext
        rw [blocksToEnd_of_fEnd hnext, hlast]
        rfl
      · rw [phaseAfterBit, if_neg hlast] at hnext
        rw [blocksToEnd_of_data hnext]
        bv_omega
    | fEnd k =>
      obtain ⟨st, fr, d, hend⟩ := endFrame_next t k s
      cases hend.symm.trans h
      rw [blocksToEnd_of_fEnd hop, blocksToEnd_of_not_inFrame (inFrame_afterFrame t k _)]
      exact ⟨rfl, nofun⟩

/-- A sequence left to itself stays in its frame for as many steps as are left of it, and `FREQ` with it. -/
theorem steps_within_frame (n : Nat) : ∀ {s : State}, configOk s.cfg = true → s.agenda = [] → n < s.blocksToEnd →
    ∃ u, steps n s = .next u ∧ u.blocksToEnd + n = s.blocksToEnd ∧ u.freq = s.freq := by
  induction n with
  | zero => exact fun _ _ _ => ⟨_, rfl, rfl, rfl⟩
  | succ n ih =>
    intro s hcfg halone hleft
    have hframe : inFrame s.opstate = true := (blocksToEnd_pos_iff s).1 (by omega)
    have hop : s.opstate ≠ .classifying := by rintro hop; simp [hop, inFrame] at hframe
    obtain ⟨u, hblock⟩ := blockStep_next s
    obtain ⟨hcfg', hagenda', -⟩ := blockStep_keeps hop hblock
    obtain ⟨hless, hfreq⟩ := blockStep_within_frame hframe hblock
    obtain ⟨v, hsteps, hcount, hfreq'⟩ := ih (hcfg' ▸ hcfg) (hagenda'.trans halone) (by omega : n < u.blocksToEnd)
    exact ⟨v, (steps_succ_of_next ((step_of_alone hcfg halone hop).trans hblock) n).trans hsteps, by omega,
      hfreq'.trans (hfreq (by omega))⟩

/-- While a frame is in progress, passing moves leave `ACC`: an edge is at most latched (R57, R107). -/
theorem Sequencing.acc_within_frame {rest : List Move} : ∀ {ms : List Move} {s t : State}, Sequencing s →
    (∀ m ∈ ms, m.passes = true) → s.agenda = ms ++ rest → ms.count .block < s.blocksToEnd →
    steps ms.length s = .next t → t.acc = s.acc ∧ t.blocksToEnd + ms.count .block = s.blocksToEnd
  | [], s, t, _, _, _, _, hsteps => by cases hsteps; exact ⟨rfl, rfl⟩
  | m :: ms, s, t, h, hpass, hagenda, hleft, hsteps => by
    obtain ⟨hm, hms⟩ := List.forall_mem_cons.1 hpass
    rw [count_block_cons] at hleft ⊢
    obtain ⟨u, hstep, hu, hagenda', hquiet⟩ := h.step_passing hm hagenda
    obtain ⟨v, hquiet', hless, -⟩ :=
      steps_within_frame ([m].count .block) (s := s.quiet) h.configured rfl (by change _ < s.blocksToEnd; omega)
    cases hquiet.symm.trans hquiet'
    have hless : u.blocksToEnd + [m].count .block = s.blocksToEnd := hless
    have hbefore : inFrame s.opstate = true := (blocksToEnd_pos_iff s).1 (by omega)
    have hafter : inFrame u.opstate = true := (blocksToEnd_pos_iff u).1 (by omega)
    have hnoReset : s.agenda.head? ≠ some .reset := by
      rw [hagenda]
      rintro ⟨⟩
      cases hm
    have hacc := accumulatorHeldWithinAFrame s u h.consistent hstep hbefore hafter hnoReset
    rw [List.length_cons, steps_succ_of_next hstep] at hsteps
    obtain ⟨hacc', hcount⟩ := hu.acc_within_frame hms hagenda' (by omega) hsteps
    exact ⟨hacc'.trans hacc, by omega⟩

/-! ### The frame operations under interleaving -/

/-- The service of F_END is the one change of `ACC` over a frame (R102, R107). -/
theorem Sequencing.acc_over_frame {s t : State} {ms rest : List Move} (h : Sequencing s)
    (hpass : ∀ m ∈ ms, m.passes = true) (hcount : ms.count .block + 1 = s.blocksToEnd)
    (hagenda : s.agenda = ms ++ .block :: rest) (hsteps : steps (ms.length + 1) s = .next t) :
    t.acc = s.acc ∨ t.acc = s.acc + 1 ∨ t.acc = s.acc - 1 := by
  obtain ⟨u, hbefore, hu, hblock, -⟩ := h.steps_passing hpass hagenda
  obtain ⟨hacc, hleft⟩ := h.acc_within_frame hpass hagenda (by omega) hbefore
  obtain ⟨tr, k, hop⟩ := fEnd_of_blocksToEnd_eq_one (s := u) (by omega)
  have hsaved : u.imaskSaved = false := hu.consistent.saved (by simp [hop, inFrame])
  obtain ⟨v, hend, -, -, -, -, hserviced⟩ := pendingEdgeServicedAtFrameEnd u tr k rest hu.configured hop hblock hsaved
  rw [steps_add hbefore, steps_one, hend] at hsteps
  cases hsteps
  rw [hserviced, ← hacc]
  split
  · split
    · exact .inr (.inr rfl)
    · exact .inr (.inl rfl)
  · exact .inl rfl

/-- A frame operation starts from `s` with step F0 of its first frame in `v`, with the moves `l` left (R161; log
entry 13). -/
structure Starts (s v : State) (t : Transfer) (l : List Move) : Prop where
  configured : configOk s.cfg = true
  consistent : Consistent s
  start : step s = .next (v.startFrame t 0)
  atRest : AtRest v
  agenda : v.agenda = l
  resValid : v.resValid = false
  cfg : v.cfg = s.cfg
  trace : v.trace = s.trace
  freq : v.freq = s.freq
  acc : v.acc = s.acc
  res : v.res = s.res
  relay : v.relay = s.relay
  ddsReady : v.ddsReady = s.ddsReady

theorem Starts.undisturbed {s v : State} {t : Transfer} {l : List Move} (h : Starts s v t l) : Undisturbed v.quiet :=
  have hrest := h.atRest
  { hrest with nonePending := rfl, edge := rfl, configured := h.cfg ▸ h.configured, alone := rfl }

section
variable {s v : State} {t : Transfer} {l : List Move} (h : Starts s v t l)
include h

theorem Starts.sequencing : Sequencing (v.startFrame t 0) :=
  sequencing_of_step h.configured h.consistent h.start (by simp [startFrame_eq])

theorem Starts.agenda_startFrame : (v.startFrame t 0).agenda = l := by
  rw [startFrame_eq]
  exact h.agenda

end

/-- What a frame operation comes to under passing moves is, on the quiet state, what it comes to when left to itself. -/
theorem Starts.steps_passing {s v : State} {t : Transfer} {ms rest : List Move} (h : Starts s v t (ms ++ rest))
    (hpass : ∀ m ∈ ms, m.passes = true) :
    ∃ u, steps (ms.length + 1) s = .next u ∧ Sequencing u ∧ u.agenda = rest
      ∧ steps (ms.count .block) (v.quiet.startFrame t 0) = .next u.quiet := by
  obtain ⟨u, hsteps, hu, hrest, hquiet⟩ := h.sequencing.steps_passing hpass h.agenda_startFrame
  exact ⟨u, (steps_succ_of_next h.start _).trans hsteps, hu, hrest, quiet_startFrame t 0 v ▸ hquiet⟩

/-- The machine when the operation `w` has been taken, with the moves `l` left: the operation registers are written and
`RES_VALID` is 0 (R30). -/
def State.taken (w : HostWord) (l : List Move) (s : State) : State := ((s.withAgenda l).latch w).beginOp

/-- Taking an operation reaches no line, no mask and no latch. -/
theorem AtRest.taken {s : State} (h : AtRest s) (w : HostWord) (l : List Move) : AtRest (s.taken w l) :=
  { h with }

/-- An idle machine starts the operation that its next move decodes to (R60). -/
theorem step_of_decodeHost {s : State} {w : HostWord} {l : List Move} {i : Instr} {start : State → State}
    (hcfg : configOk s.cfg = true) (hidle : s.opstate = .idle) (hagenda : s.agenda = .host w :: l)
    (hdec : decodeHost w = .ok i) (hexec : ∀ u, exec i u = whenIdle u start) :
    step s = .next (start ((s.withAgenda l).latch w)) := by
  rw [step_of_host hcfg hidle hagenda, issue_of_decodeHost hdec, hexec,
    whenIdle_of_idle (s := (s.withAgenda l).latch w) hidle, absorbRefusal_next]

theorem decodeHost_frame (f opb : Half) : decodeHost ⟨0x5, f.zeroExtend 32, opb⟩ = .ok (.serXfer16 f) := by
  have hopa : (f.zeroExtend 32).toNat = f.toNat := BitVec.toNat_setWidth_of_le (by decide)
  rw [decodeHost_serXfer16 opb (hopa.trans_lt f.isLt), hopa, BitVec.ofNat_toNat, BitVec.setWidth_eq]

section
variable {s : State} {w : HostWord} {l : List Move} (hcfg : configOk s.cfg = true) (hcons : Consistent s)
  (hidle : s.opstate = .idle)
include hcfg hcons hidle

theorem starts_taken {t : Transfer} (hstart : step s = .next ((s.taken w l).startFrame t 0)) :
    Starts s (s.taken w l) t l where
  configured := hcfg
  consistent := hcons
  start := hstart
  atRest := (hcons.atRest (by simp [hidle, inFrame])).taken w l
  agenda := rfl
  resValid := rfl
  cfg := rfl
  trace := rfl
  freq := rfl
  acc := rfl
  res := rfl
  relay := rfl
  ddsReady := rfl

/-- The start of an operation that marks `DdsNotInitialised` (R204) differs in the mark alone. -/
theorem starts_taken_checkReady {t : Transfer}
    (hstart : step s = .next ((s.taken w l).checkReady.startFrame t 0)) : Starts s (s.taken w l).checkReady t l where
  configured := hcfg
  consistent := hcons
  start := hstart
  atRest := ((hcons.atRest (by simp [hidle, inFrame])).taken w l).checkReady
  agenda := by rw [checkReady_eq]; rfl
  resValid := by rw [checkReady_eq]; rfl
  cfg := by rw [checkReady_eq]; rfl
  trace := by rw [checkReady_eq]; rfl
  freq := by rw [checkReady_eq]; rfl
  acc := by rw [checkReady_eq]; rfl
  res := by rw [checkReady_eq]; rfl
  relay := by rw [checkReady_eq]; rfl
  ddsReady := by rw [checkReady_eq]; rfl

variable (hagenda : s.agenda = .host w :: l)
include hagenda

theorem starts_serXfer16 {f : Half} (hdec : decodeHost w = .ok (.serXfer16 f)) : Starts s (s.taken w l) (.raw f) l :=
  starts_taken hcfg hcons hidle (step_of_decodeHost hcfg hidle hagenda hdec fun _ => rfl)

theorem starts_ddsWriteTw {word : Word} (hdec : decodeHost w = .ok (.ddsWriteTw word)) :
    Starts s (s.taken w l).checkReady (.write word) l :=
  starts_taken_checkReady hcfg hcons hidle (step_of_decodeHost hcfg hidle hagenda hdec fun _ => rfl)

theorem starts_ddsInit (hdec : decodeHost w = .ok .ddsInit) : Starts s (s.taken w l) .init l :=
  starts_taken hcfg hcons hidle (step_of_decodeHost hcfg hidle hagenda hdec fun _ => rfl)

end

@[simp] theorem State.quiet_frame (s : State) :
    s.quiet.cfg = s.cfg ∧ s.quiet.opstate = s.opstate ∧ s.quiet.trace = s.trace ∧ s.quiet.freq = s.freq
      ∧ s.quiet.rx = s.rx ∧ s.quiet.sdata = s.sdata ∧ s.quiet.res = s.res ∧ s.quiet.resValid = s.resValid
      ∧ s.quiet.relay = s.relay ∧ s.quiet.ddsReady = s.ddsReady
      ∧ s.quiet.fault.ddsNotInitialised = s.fault.ddsNotInitialised :=
  ⟨rfl, rfl, rfl, rfl, rfl, rfl, rfl, rfl, rfl, rfl, rfl⟩

theorem blocksToEnd_startFrame (t : Transfer) (k : Nat) (s : State) : (s.startFrame t k).blocksToEnd = 49 :=
  blocksToEnd_of_data (i := 15) rfl

/-- Over the first frame of an operation at most one edge is applied (R107). -/
theorem Starts.acc_over_frame {s v u : State} {t : Transfer} {ms rest : List Move}
    (h : Starts s v t (ms ++ .block :: rest)) (hpass : ∀ m ∈ ms, m.passes = true) (hcount : ms.count .block = 48)
    (hsteps : steps (ms.length + 2) s = .next u) : u.acc = s.acc ∨ u.acc = s.acc + 1 ∨ u.acc = s.acc - 1 := by
  rw [steps_succ_of_next h.start] at hsteps
  have hacc := h.sequencing.acc_over_frame hpass (by rw [hcount, blocksToEnd_startFrame]) h.agenda_startFrame hsteps
  simpa [h.acc] using hacc

theorem forall_passes_append_block {ms : List Move} (hpass : ∀ m ∈ ms, m.passes = true) :
    ∀ m ∈ ms ++ [.block], m.passes = true := by
  simpa [or_imp, forall_and, Move.passes] using hpass

/-- Under passing moves with `n` steps of the block among them, and one block step more. -/
theorem Starts.steps_to_end {s v : State} {t : Transfer} {ms rest : List Move} {n : Nat} {e : State}
    (h : Starts s v t (ms ++ .block :: rest)) (hpass : ∀ m ∈ ms, m.passes = true) (hcount : ms.count .block = n)
    (halone : steps (n + 1) (v.quiet.startFrame t 0) = .next e) :
    ∃ u, steps (ms.length + 2) s = .next u ∧ Consistent u ∧ u.agenda = rest ∧ u.quiet = e := by
  rw [List.append_cons] at h
  obtain ⟨u, hsteps, hu, hrest, hquiet⟩ := h.steps_passing (forall_passes_append_block hpass)
  rw [List.count_append, hcount, List.count_singleton_self, halone] at hquiet
  rw [List.length_append] at hsteps
  cases hquiet
  exact ⟨u, hsteps, hu.consistent, hrest, rfl⟩

/-- An operation that is over has left the bus idle and the mask open (R28, R104). -/
theorem Consistent.lines_of_idle {s : State} (h : Consistent s) (hidle : s.opstate = .idle) :
    s.fsyncN = true ∧ s.sclk = true ∧ s.imask = false ∧ s.pend = false := by
  obtain ⟨hmask, hpend, hfsync, hclock, -, -⟩ := h.atRest (by simp [hidle, inFrame])
  exact ⟨hfsync, hclock, hmask, hpend⟩

/-- Settles O23: the one frame of the operation, left to itself, on the quiet state; and the edge served at its end. -/
theorem rawFrameUnderInterleaving : Obligations.RawFrameUnderInterleaving := by
  intro s f opb ms rest hcfg hcons hidle hpass hcount hagenda
  obtain ⟨v, hstart⟩ : ∃ v, Starts s v (.raw f) (ms ++ .block :: rest) :=
    ⟨_, starts_serXfer16 hcfg hcons hidle hagenda (decodeHost_frame f opb)⟩
  obtain ⟨st, fr, d, hreceive⟩ := receiveFrame_next (v.quiet.carry (.raw f) 0)
  have halone := hstart.undisturbed.steps_frame (.raw f) 0
  rw [hreceive, andThen_next] at halone
  obtain ⟨u, hsteps, hu, hrest, hquiet⟩ := hstart.steps_to_end hpass hcount halone
  have hop : u.opstate = .idle := (congrArg State.opstate hquiet :)
  obtain ⟨hfsync, hclock, hmask, hpend⟩ := hu.lines_of_idle hop
  have htrace : u.trace = v.trace ++ frameTrace f := (congrArg State.trace hquiet :)
  have hres : u.res = v.res := (congrArg State.res hquiet :)
  have hresult : u.resValid = v.resValid := (congrArg State.resValid hquiet :)
  have hrelay : u.relay = v.relay := (congrArg State.relay hquiet :)
  have hready : u.ddsReady = v.ddsReady := (congrArg State.ddsReady hquiet :)
  have hacc := hstart.acc_over_frame hpass hcount hsteps
  exact ⟨u, hsteps, hop, hrest, hstart.trace ▸ htrace, hfsync, hclock, (congrArg State.sdata hquiet :), hmask, hpend,
    hacc, hres.trans hstart.res, hresult.trans hstart.resValid, hrelay.trans hstart.relay,
    hready.trans hstart.ddsReady, (congrArg State.rx hquiet :)⟩

/-! ### The word on the chip -/

theorem sendsWord_write {c : Config} (h : TagsApart c) (w : Word) : SendsWord c (.write w) 0 w where
  tagsApart := h
  frames j _ := by rw [zero_add]; rfl
  within := le_refl 3

theorem sendsWord_init {c : Config} (h : TagsApart c) : SendsWord c .init 1 Config.initWord where
  tagsApart := h
  frames j hj := by interval_cases j <;> rfl
  within := by decide

@[simp] theorem afterFrame_write_last (w : Word) (s : State) : s.afterFrame (.write w) 3 = s.finishSilent := rfl

/-- Settles O24: the four frames of the word, left to themselves, on the quiet state. -/
theorem writeLawUnderInterleaving : Obligations.WriteLawUnderInterleaving := by
  intro s w opb ms rest hcfg hlow hhigh hcons hidle hpass hcount hagenda
  obtain ⟨v, hstart⟩ : ∃ v, Starts s v (.write w) (ms ++ .block :: rest) :=
    ⟨_, starts_ddsWriteTw hcfg hcons hidle hagenda (decodeHost_ddsWriteTw w opb)⟩
  have hword : SendsWord v.cfg (.write w) 0 w := hstart.cfg ▸ sendsWord_write ⟨hcfg, hlow, hhigh⟩ w
  obtain ⟨u, hsteps, hu, hrest, hquiet⟩ :=
    hstart.steps_to_end hpass hcount (hstart.undisturbed.steps_sendWord hword)
  have hop : u.opstate = .idle := (congrArg State.opstate hquiet :)
  obtain ⟨-, -, hmask, hpend⟩ := hu.lines_of_idle hop
  have htrace := sendWord_trace (s := v.quiet) hword
  exact ⟨u, hsteps, hop, hrest, by simpa [htrace, hstart.trace, hstart.cfg] using congrArg State.trace hquiet,
    by simpa using congrArg State.freq hquiet, hmask, hpend,
    by simpa [hstart.res] using congrArg State.res hquiet,
    by simpa [hstart.resValid] using congrArg State.resValid hquiet,
    by simpa [hstart.relay] using congrArg State.relay hquiet,
    by simpa [hstart.ddsReady] using congrArg State.ddsReady hquiet⟩

/-! ### The frequency between two commits -/

@[simp] theorem State.afterFrame_freq (t : Transfer) (k : Nat) (s : State) : (s.afterFrame t k).freq = s.freq := by
  obtain ⟨-, h⟩ | ⟨-, ⟨_, -, h⟩ | ⟨_, -, h⟩ | ⟨-, h⟩ | ⟨_, _, -, h⟩⟩ := afterFrame_cases t k s <;> simp [h]

section
variable {s : State} {t : Transfer} {k : Nat} (h : Undisturbed s)
include h

theorem Undisturbed.freq_within_frame {n : Nat} (hn : n ≤ 48) :
    ∃ u, steps n (s.startFrame t k) = .next u ∧ u.freq = s.freq := by
  have hF0 : configOk (s.startFrame t k).cfg = true ∧ (s.startFrame t k).agenda = []
      ∧ (s.startFrame t k).freq = s.freq := by
    simp [startFrame_eq, h.configured, h.alone]
  obtain ⟨hcfg, halone, hfreq⟩ := hF0
  have hleft : n < (s.startFrame t k).blocksToEnd := by rw [blocksToEnd_startFrame]; omega
  obtain ⟨u, hsteps, -, hkept⟩ := steps_within_frame n hcfg halone hleft
  exact ⟨u, hsteps, hkept.trans hfreq⟩

/-- A staging frame leaves `FREQ`, its end included (R168). -/
theorem Undisturbed.freq_over_staging {d : Byte} (hstage : Receives s.cfg (frameAt s.cfg t k) (State.stageByte d))
    {n : Nat} (hn : n ≤ 49) : ∃ u, steps n (s.startFrame t k) = .next u ∧ u.freq = s.freq := by
  obtain hn | rfl := Nat.le_succ_iff.1 hn
  · exact h.freq_within_frame hn
  · exact ⟨_, h.frame_ends hstage, by simp⟩

/-- From the end of frame 1 to the step before the end of frame 3 `FREQ` has the word's low half only (R164, R226). -/
theorem Undisturbed.freq_between_commits {w : Word} (hword : SendsWord s.cfg t k w) {n : Nat} (hfrom : 99 ≤ n)
    (hto : n ≤ 198) : ∃ u, steps n (s.startFrame t k) = .next u ∧ u.freq = (s.sendLow w t k).freq := by
  obtain ⟨-, -, hstage, -⟩ := hword.tagsApart.receives_twFrame w
  rw [← hword.frames 2 (by decide)] at hstage
  have hwithin := hword.within
  have hlow : Undisturbed (s.sendLow w t k) := h.sendHalf _ _ _ t k
  have hcfg : (s.sendLow w t k).cfg = s.cfg := (s.sendHalf_frame _ _ _ t k).1
  rw [← hcfg] at hstage
  have hfirst := h.steps_sendLow hword
  obtain rfl | hstaging | hcommit : n = 99 ∨ (100 ≤ n ∧ n ≤ 149) ∨ 150 ≤ n := by omega
  · exact ⟨_, hfirst, by simp⟩
  · obtain ⟨m, rfl⟩ := Nat.exists_eq_add_of_le hstaging.1
    rw [hlow.steps_gap (by omega) hfirst]
    exact hlow.freq_over_staging hstage (by omega)
  · obtain ⟨m, rfl⟩ := Nat.exists_eq_add_of_le hcommit
    have hstaged : Undisturbed (((s.sendLow w t k).carry t (k + 2)).stageByte (w.extractLsb' 16 8)) :=
      (hlow.carry t (k + 2)).stageByte _
    have hsecond : steps 149 (s.startFrame t k) = .next (State.afterFrame t (k + 2)
        (((s.sendLow w t k).carry t (k + 2)).stageByte (w.extractLsb' 16 8))) :=
      (hlow.steps_gap (m := 49) (by omega) hfirst).trans (hlow.frame_ends hstage)
    rw [hstaged.steps_gap (by omega) hsecond]
    exact hstaged.freq_within_frame (by omega)

end

/-- Settles O25: the frequency between the two commits, on the quiet state, in numbers. -/
theorem mixedFrequencyDuringWrite : Obligations.MixedFrequencyDuringWrite := by
  intro s w opb ms rest hcfg hlow hhigh hcons hidle hpass hfrom hto hagenda
  obtain ⟨v, hstart⟩ : ∃ v, Starts s v (.write w) (ms ++ rest) :=
    ⟨_, starts_ddsWriteTw hcfg hcons hidle hagenda (decodeHost_ddsWriteTw w opb)⟩
  have hword : SendsWord v.cfg (.write w) 0 w := hstart.cfg ▸ sendsWord_write ⟨hcfg, hlow, hhigh⟩ w
  obtain ⟨u, hsteps, -, -, hquiet⟩ := hstart.steps_passing hpass
  obtain ⟨e, halone, hfreq⟩ := hstart.undisturbed.freq_between_commits hword hfrom hto
  cases hquiet.symm.trans halone
  have hmixed : u.freq = committed .low (w.extractLsb' 8 8) (w.extractLsb' 0 8) s.freq := by
    simpa [hstart.freq] using hfreq
  refine ⟨u, hsteps, ?_⟩
  rw [hmixed, committed_low_toNat]
  simp only [BitVec.extractLsb'_toNat, Nat.shiftRight_eq_div_pow]
  omega

/-! ### DDS_INIT -/

theorem receives_cmdSrc {c : Config} (h : KindsApart c) : Receives c (frameAt c .init 0) State.scrambleReader :=
  receives_of_decodes h.decodeFrame_cmdSrc fun _ => rfl

theorem receives_cmdCtrl {c : Config} (h : KindsApart c) : Receives c (frameAt c .init 5) id :=
  receives_of_decodes h.decodeFrame_cmdCtrl fun _ => rfl

theorem tagsApart_of_kindsApart {c : Config} (h : KindsApart c) (hcfg : configOk c = true) : TagsApart c :=
  ⟨hcfg, h.tag1_ne_tag0.symm, h.tag3_ne_tag2.symm⟩

/-- The state after the six frames of DDS_INIT (R166). -/
def State.sendInit (s : State) : State :=
  ((s.carry .init 0).scrambleReader.sendWord Config.initWord .init 1).carry .init 5

/-- The six frames of DDS_INIT, up to the end of the last (R166). -/
theorem Undisturbed.steps_sendInit {s : State} (h : Undisturbed s) (hkinds : KindsApart s.cfg) :
    steps 299 (s.startFrame .init 0) = .next (s.sendInit.afterFrame .init 5) := by
  have hsrc : Undisturbed (s.carry .init 0).scrambleReader := (h.carry .init 0).scrambleReader
  have hword : SendsWord s.cfg .init 1 Config.initWord := sendsWord_init (tagsApart_of_kindsApart hkinds h.configured)
  have hsent : Undisturbed ((s.carry .init 0).scrambleReader.sendWord Config.initWord .init 1) := hsrc.sendWord _ _ _
  have hcfg : ((s.carry .init 0).scrambleReader.sendWord Config.initWord .init 1).cfg = s.cfg := by simp
  have hctrl := receives_cmdCtrl hkinds
  rw [← hcfg] at hctrl
  calc steps 299 (s.startFrame .init 0)
    _ = steps 249 ((s.carry .init 0).scrambleReader.startFrame .init 1) :=
      hsrc.steps_gap (m := 249) (by decide) (h.frame_ends (receives_cmdSrc hkinds))
    _ = steps 49 (((s.carry .init 0).scrambleReader.sendWord Config.initWord .init 1).startFrame .init 5) :=
      hsent.steps_gap (m := 49) (by decide) (hsrc.steps_sendWord hword)
    _ = .next (s.sendInit.afterFrame .init 5) := by
      rw [hsent.frame_ends hctrl, id_eq, State.sendInit]

theorem sendInit_trace {s : State} (hkinds : KindsApart s.cfg) (hcfg : configOk s.cfg = true) :
    s.sendInit.trace =
      s.trace ++ frameTrace s.cfg.cmdSrc ++ writeTrace s.cfg Config.initWord ++ frameTrace s.cfg.cmdCtrl := by
  have hword := sendsWord_init (tagsApart_of_kindsApart hkinds hcfg)
  have hsent := sendWord_trace (s := (s.carry .init 0).scrambleReader) hword
  simp [State.sendInit, hsent, frameAt, initFrame]

@[simp] theorem State.sendInit_frame (s : State) :
    s.sendInit.freq = Config.initWord ∧ s.sendInit.res = s.res ∧ s.sendInit.resValid = s.resValid
      ∧ s.sendInit.relay = s.relay ∧ s.sendInit.fault = s.fault := by
  simp [State.sendInit]

@[simp] theorem afterFrame_init_last (s : State) :
    s.afterFrame .init 5 = { s with ddsReady := true, opstate := .idle } := rfl

/-- Settles O26: the six frames, left to themselves, on the quiet state. -/
theorem initUnderInterleaving : Obligations.InitUnderInterleaving := by
  intro s opa opb ms rest hcfg happart hcons hidle hpass hcount hagenda
  obtain ⟨v, hstart, hfaults⟩ : ∃ v, Starts s v .init (ms ++ .block :: rest) ∧ v.fault = s.fault :=
    ⟨_, starts_ddsInit hcfg hcons hidle hagenda (decodeHost_ddsInit opa opb), rfl⟩
  have hkinds : KindsApart v.cfg := hstart.cfg ▸ kindsApart_of_framesApart happart
  obtain ⟨u, hsteps, hu, hrest, hquiet⟩ :=
    hstart.steps_to_end hpass hcount (hstart.undisturbed.steps_sendInit hkinds)
  have hop : u.opstate = .idle := (congrArg State.opstate hquiet :)
  obtain ⟨-, -, hmask, hpend⟩ := hu.lines_of_idle hop
  have htrace := sendInit_trace (s := v.quiet) hkinds (hstart.cfg ▸ hcfg)
  have hfault := congrArg (fun e : State => e.fault.ddsNotInitialised) hquiet
  exact ⟨u, hsteps, hop, hrest,
    by simpa [htrace, hstart.trace, hstart.cfg, Config.initWord] using congrArg State.trace hquiet,
    by simpa using congrArg State.ddsReady hquiet, by simpa [Config.initWord] using congrArg State.freq hquiet, hmask,
    hpend,
    by simpa [hstart.res] using congrArg State.res hquiet,
    by simpa [hstart.resValid] using congrArg State.resValid hquiet,
    by simpa [hstart.relay] using congrArg State.relay hquiet, by simpa [hfaults] using hfault⟩

end Sys2Proof.Machine
end

section
/-! SUPPORT. The family of spec/44_tuning_controller.md: the applied frequency and its word (R181), the relay's step
(R182), and TUNE_SETFREQ under any interleaving of the agents (R183). -/

namespace Sys2Proof.Machine

/-! ### The applied frequency and its word -/

theorem clamp_eq_max_min (f : Int) : clamp f = max 100000 (min 20000000 f) := by
  obtain h | h | ⟨hlow, hhigh⟩ : f < 100000 ∨ 20000000 < f ∨ (100000 ≤ f ∧ f ≤ 20000000) := by omega
  · rw [clamp_of_lt h]; omega
  · rw [clamp_of_gt h]; omega
  · rw [clamp_of_mem hlow hhigh]; omega

theorem appliedFreq_eq (f : Word) : appliedFreq f = BitVec.ofInt 32 (max 100000 (min 20000000 f.toInt)) :=
  congrArg (BitVec.ofInt 32) (clamp_eq_max_min f.toInt)

/-- A clamped frequency is an `s32`: `RES` holds it as it is (R143, R181). -/
theorem appliedFreq_toInt (f : Word) : (appliedFreq f).toInt = clamp f.toInt := by
  obtain ⟨hlow, hhigh⟩ := clamp_mem f.toInt
  rw [appliedFreq_eq, ← clamp_eq_max_min]
  exact BitVec.toInt_ofInt_eq_self (by decide) (by omega) (by omega)

theorem vfo_eq (c : Config) (f : Int) (usb : Bool) :
    vfo c f usb = BitVec.ofInt 32 (if usb then f - c.ifHz else f + c.ifHz) := by
  cases usb <;> rfl

/-- The word is that of the shifted applied frequency, under every configuration (R147, R181). -/
theorem tuneWord_eq (c : Config) (f : Word) (usb : Bool) :
    tuneWord c f usb =
      BitVec.ofInt 32 (ratioK c * (vfo c (appliedFreq f).toInt usb).toInt.tmod (10 ^ 8)) := by
  rw [appliedFreq_toInt]
  exact tword_eq c _

/-- Under R8 neither the offset nor the digits of the word wrap (R147). -/
theorem tuneWord_of_configOk {c : Config} (hcfg : configOk c = true) (f : Word) (usb : Bool) :
    tuneWord c f usb = BitVec.ofInt 32
      (ratioK c * if usb then (appliedFreq f).toInt - c.ifHz else (appliedFreq f).toInt + c.ifHz) := by
  obtain ⟨-, hclosed⟩ := tuningWordClosedForm.2 c f.toInt usb hcfg
  rw [appliedFreq_toInt, ← vfo_clamp_toInt hcfg]
  exact hclosed

/-- Settles O20: the word of the applied frequency, the mark of R204, and then everything that step F0 writes. -/
theorem tuneSetfreqStart : Obligations.TuneSetfreqStart := by
  intro s f a v w usb hidle ha hv hw
  have happlied : appliedFreq f = a := (appliedFreq_eq f).trans ha.symm
  have hword : tuneWord s.cfg f usb = w := by rw [tuneWord_eq, happlied, vfo_eq, ← hv, hw]
  calc exec (.tuneSetfreq f usb) s
    _ = .next (s.beginOp.checkReady.startFrame (.tune (appliedFreq f) (tuneWord s.cfg f usb)) 0) :=
      whenIdle_of_idle hidle _
    _ = _ := by rw [happlied, hword, startFrame_eq, checkReady_eq, ← tagged_low_byte]; rfl

/-! ### The relay's step -/

theorem blockStep_of_relaying {s : State} {a : Word} (hop : s.opstate = .relaying a) :
    blockStep s = .next (s.relayStep a) := by
  simp [blockStep, hop]

/-- Settles O30: the relay's step is the block's own, by everything that it writes. -/
theorem relayStep : Obligations.RelayStep := by
  intro s a rest hcfg hop hagenda
  calc step s
    _ = blockStep (s.withAgenda rest) := step_of_block hcfg hagenda
    _ = .next ((s.withAgenda rest).relayStep a) := blockStep_of_relaying hop
    _ = _ := by rw [relayStep_eq]; rfl

/-! ### TUNE_SETFREQ under interleaving -/

theorem decodeHost_tuneSetfreq_sideband (f : Word) (usb : Bool) :
    decodeHost ⟨0x8, f, if usb then 1 else 0⟩ = .ok (.tuneSetfreq f usb) :=
  (decodeHost_tuneSetfreq f (opbOfUsb_lt usb)).trans (by rw [usbOf_opbOfUsb])

theorem starts_tuneSetfreq {s : State} {w : HostWord} {l : List Move} {f : Word} {usb : Bool}
    (hcfg : configOk s.cfg = true) (hcons : Consistent s) (hidle : s.opstate = .idle)
    (hagenda : s.agenda = .host w :: l) (hdec : decodeHost w = .ok (.tuneSetfreq f usb)) :
    Starts s (s.taken w l).checkReady (.tune (appliedFreq f) (tuneWord s.cfg f usb)) l :=
  starts_taken_checkReady hcfg hcons hidle (step_of_decodeHost hcfg hidle hagenda hdec fun _ => rfl)

theorem sendsWord_tune {c : Config} (h : TagsApart c) (a w : Word) : SendsWord c (.tune a w) 0 w where
  tagsApart := h
  frames j _ := by rw [zero_add]; rfl
  within := le_refl 3

/-- After the last of the four frames the block's next step is the relay's (R181). -/
theorem Undisturbed.step_relay {s : State} (h : Undisturbed s) (a w : Word) :
    step (s.afterFrame (.tune a w) 3) = .next (s.relayStep a) := by
  calc step (s.afterFrame (.tune a w) 3)
    _ = step { s with opstate := .relaying a } := rfl
    _ = blockStep { s with opstate := .relaying a } := step_of_alone h.configured h.alone nofun
    _ = .next (State.relayStep a { s with opstate := .relaying a }) := blockStep_of_relaying rfl
    _ = .next (s.relayStep a) := rfl

/-- The four frames of a tuning and then the relay, left to themselves (R181, R182). -/
theorem Undisturbed.steps_tune {s : State} {a w : Word} (h : Undisturbed s) (htags : TagsApart s.cfg) :
    steps 200 (s.startFrame (.tune a w) 0) = .next ((s.sendWord w (.tune a w) 0).relayStep a) := by
  have hsent : Undisturbed (s.sendWord w (.tune a w) 0) := h.sendWord w _ 0
  calc steps 200 (s.startFrame (.tune a w) 0)
    _ = steps 1 ((s.sendWord w (.tune a w) 0).afterFrame (.tune a w) 3) :=
      steps_add (m := 1) (h.steps_sendWord (sendsWord_tune htags a w))
    _ = step ((s.sendWord w (.tune a w) 0).afterFrame (.tune a w) 3) := steps_one _
    _ = .next ((s.sendWord w (.tune a w) 0).relayStep a) := hsent.step_relay a w

/-- Settles O27: the four frames and the relay, left to themselves, on the quiet state. -/
theorem tuneUnderInterleaving : Obligations.TuneUnderInterleaving := by
  intro s f a usb ms rest hcfg hlow hhigh hcons hidle hpass hcount hagenda ha
  have happlied : appliedFreq f = a := (appliedFreq_eq f).trans ha.symm
  have hclosed := happlied ▸ tuneWord_of_configOk hcfg f usb
  obtain ⟨v, hstart⟩ : ∃ v, Starts s v (.tune a (tuneWord s.cfg f usb)) (ms ++ .block :: rest) :=
    ⟨_, happlied ▸ starts_tuneSetfreq hcfg hcons hidle hagenda (decodeHost_tuneSetfreq_sideband f usb)⟩
  have htags : TagsApart v.cfg := hstart.cfg ▸ ⟨hcfg, hlow, hhigh⟩
  obtain ⟨u, hsteps, -, hrest, hquiet⟩ := hstart.steps_to_end hpass hcount (hstart.undisturbed.steps_tune htags)
  rw [relayStep_eq] at hquiet
  have hfreq : u.freq = tuneWord s.cfg f usb := by simpa using congrArg State.freq hquiet
  have hrelay : u.relay = relayLevel a := (congrArg State.relay hquiet :)
  have htrace : u.trace = s.trace ++ writeTrace s.cfg (tuneWord s.cfg f usb) ++ [(.relay, relayLevel a)] := by
    have hword := sendWord_trace (s := v.quiet) (sendsWord_tune htags a (tuneWord s.cfg f usb))
    simpa [hword, hstart.trace, hstart.cfg] using congrArg State.trace hquiet
  exact ⟨u, hsteps, (congrArg State.opstate hquiet :), hrest, (congrArg State.res hquiet :),
    (congrArg State.resValid hquiet :), hrelay, hfreq.trans hclosed, by rw [htrace, hfreq, hrelay]⟩

end Sys2Proof.Machine
end

section
/-! SUPPORT. The family of spec/60_exceptions.md: the totality of the step (R200, R201), the marks of faults and of
refusals (R202 to R205), the read of `RES` (R203, R215), and the hold of a host operation while busy (R206). -/

namespace Sys2Proof.Machine

/-! ### The totality of the step -/

/-- Settles O54, by the totality of each move. -/
theorem machineNeverStops : Obligations.MachineNeverStops :=
  fun _ hcfg => step_next_of_configOk hcfg

/-! ### The read of `RES` -/

/-- Settles O53, by the two cases of a read. -/
theorem readOfResult : Obligations.ReadOfResult := by
  intro s rest hcfg hagenda
  rw [step_of_readRes hcfg hagenda]
  obtain ⟨hvalid, hread⟩ | ⟨hnone, hread⟩ := readRes_cases (s.withAgenda rest) <;> rw [hread]
  · exact ⟨fun _ => rfl, fun hnone => absurd (hnone.symm.trans hvalid) nofun⟩
  · exact ⟨fun hvalid => absurd (hnone.symm.trans hvalid) nofun, fun _ => rfl⟩

/-! ### What each operation does to the two marks -/

@[simp] theorem State.poll_marks (s : State) : s.poll.fault = s.fault ∧ s.poll.refusals = s.refusals := by
  simp [State.poll]

@[simp] theorem State.computeVfo_marks (f : Word) (usb : Bool) (s : State) :
    (s.computeVfo f usb).fault = s.fault ∧ (s.computeVfo f usb).refusals = s.refusals := by
  simp [State.computeVfo]

@[simp] theorem State.computeWord_marks (v : Word) (s : State) :
    (s.computeWord v).fault = s.fault ∧ (s.computeWord v).refusals = s.refusals := by
  simp [State.computeWord]

@[simp] theorem State.evaluate_marks (s : State) :
    s.evaluate.fault = s.fault ∧ s.evaluate.refusals = s.refusals := by
  obtain ⟨-, h⟩ | ⟨-, -, h⟩ | ⟨-, -, -, h⟩ | ⟨-, -, -, h⟩ := evaluate_cases s <;> simp [h]

@[simp] theorem State.timerStep_marks (s : State) :
    s.timerStep.fault = s.fault ∧ s.timerStep.refusals = s.refusals := by
  obtain ⟨-, h⟩ | ⟨-, h⟩ | ⟨-, h⟩ := timerStep_cases s <;> simp [h]

@[simp] theorem State.classify_marks (b : Half) (s : State) :
    (s.classify b).fault = s.fault ∧ (s.classify b).refusals = s.refusals := by
  obtain ⟨-, h⟩ | ⟨-, h⟩ := classify_cases b s <;> simp [h]

@[simp] theorem State.envStep_marks (a b n : Option Bool) (s : State) :
    (s.envStep a b n).fault = s.fault ∧ (s.envStep a b n).refusals = s.refusals := by
  rw [envStep_eq]
  exact ⟨rfl, rfl⟩

@[simp] theorem State.startFrame_marks (t : Transfer) (k : Nat) (s : State) :
    (s.startFrame t k).fault = s.fault ∧ (s.startFrame t k).refusals = s.refusals := by
  simp [startFrame_eq]

@[simp] theorem State.startRaw_marks (f : Half) (s : State) :
    (s.startRaw f).fault = s.fault ∧ (s.startRaw f).refusals = s.refusals := by
  simp [State.startRaw]

@[simp] theorem State.startInit_marks (s : State) :
    s.startInit.fault = s.fault ∧ s.startInit.refusals = s.refusals := by
  simp [State.startInit]

/-- A tuning write marks what the check of `DDS_READY` marks (R163, R204). -/
@[simp] theorem State.startWrite_marks (v : Word) (s : State) :
    (s.startWrite v).fault = s.checkReady.fault ∧ (s.startWrite v).refusals = s.refusals := by
  simp [State.startWrite, checkReady_eq]

/-- A tuning marks what the check of `DDS_READY` marks (R181, R204). -/
@[simp] theorem State.startTune_marks (f : Word) (usb : Bool) (s : State) :
    (s.startTune f usb).fault = s.checkReady.fault ∧ (s.startTune f usb).refusals = s.refusals := by
  simp [State.startTune, checkReady_eq]

@[simp] theorem State.dataStep_marks (t : Transfer) (k : Nat) (i : BitVec 4) (s : State) :
    (s.dataStep t k i).fault = s.fault ∧ (s.dataStep t k i).refusals = s.refusals := by
  simp [State.dataStep]

@[simp] theorem State.clkLowStep_marks (t : Transfer) (k : Nat) (s : State) :
    (s.clkLowStep t k).fault = s.fault ∧ (s.clkLowStep t k).refusals = s.refusals := by
  simp [State.clkLowStep]

@[simp] theorem State.clkHighStep_marks (t : Transfer) (k : Nat) (s : State) :
    (s.clkHighStep t k).fault = s.fault ∧ (s.clkHighStep t k).refusals = s.refusals := by
  simp [State.clkHighStep]

@[simp] theorem State.endFramePins_marks (s : State) :
    s.endFramePins.fault = s.fault ∧ s.endFramePins.refusals = s.refusals := by
  rw [endFramePins_eq]
  exact ⟨rfl, rfl⟩

@[simp] theorem State.afterFrame_marks (t : Transfer) (k : Nat) (s : State) :
    (s.afterFrame t k).fault = s.fault ∧ (s.afterFrame t k).refusals = s.refusals := by
  obtain ⟨-, h⟩ | ⟨-, ⟨_, -, h⟩ | ⟨_, -, h⟩ | ⟨-, h⟩ | ⟨_, _, -, h⟩⟩ := afterFrame_cases t k s <;> simp [h]

@[simp] theorem State.relayStep_marks (a : Word) (s : State) :
    (s.relayStep a).fault = s.fault ∧ (s.relayStep a).refusals = s.refusals := by
  simp [relayStep_eq]

/-! ### The marks only grow -/

/-- A read of `RES` adds at most a reason (R203). -/
theorem readRes_keeps_fault {s : State} {r : Fault} (h : s.fault.has r = true) : s.readRes.fault.has r = true := by
  obtain ⟨-, hread⟩ | ⟨-, hread⟩ := readRes_cases s
  · rw [hread]; exact h
  · rw [hread, raiseFault_has, h, Bool.true_or]

/-- The check of `DDS_READY` adds at most a reason (R204). -/
theorem checkReady_keeps_fault {s : State} {r : Fault} (h : s.fault.has r = true) :
    s.checkReady.fault.has r = true := by
  unfold State.checkReady
  split
  · exact h
  · rw [raiseFault_has, h, Bool.true_or]

/-- Settles O51: of the atomic steps, a read of `RES` and the start of a tuning write may add a reason, and only a reset
takes reasons away. -/
theorem faultMarkOnlyGrows : Obligations.FaultMarkOnlyGrows := by
  intro s t r hstep hreset hmarked
  obtain ⟨ms, heffect⟩ := step_effect hstep
  cases heffect with
  | reads => exact readRes_keeps_fault (s := s.withAgenda ms) hmarked
  | startsWrite | startsTune => simpa using checkReady_keeps_fault (s := (s.withAgenda ms).latch _) hmarked
  | resets hagenda => exact absurd (by simp [hagenda]) hreset
  | _ => simpa using hmarked

/-- Settles O52: of the atomic steps, the two refusals add a reason, and only a reset takes reasons away. -/
theorem refusalMarkOnlyGrows : Obligations.RefusalMarkOnlyGrows := by
  intro s t hstep hreset
  obtain ⟨ms, heffect⟩ := step_effect hstep
  cases heffect with
  | refusesCode => exact ⟨fun _ => rfl, id, id⟩
  | refusesBits => exact ⟨id, fun _ => rfl, id⟩
  | resets hagenda => exact absurd (by simp [hagenda]) hreset
  | _ => simp

/-! ### The operation in progress and the operation registers -/

/-- The state with the host's word `w` in the operation registers and with the moves `ms` to come (R30; log entry 1). -/
def State.withHost (w : HostWord) (ms : List Move) (s : State) : State := (s.withAgenda ms).latch w

/-- The host's word that stands in the operation registers (R30). -/
def State.hostWord (s : State) : HostWord := ⟨s.op, s.opa, s.opb⟩

theorem withHost_own (s : State) : s.withHost s.hostWord s.agenda = s := rfl

theorem evaluate_withHost (w : HostWord) (ms : List Move) (s : State) :
    (s.withHost w ms).evaluate = s.evaluate.withHost w ms := by
  simp only [State.evaluate, apply_ite (State.withHost w ms)]
  rfl

theorem timerStep_withHost (w : HostWord) (ms : List Move) (s : State) :
    (s.withHost w ms).timerStep = s.timerStep.withHost w ms := by
  have hsame : (s.withHost w ms).bstate = s.bstate := rfl
  unfold State.timerStep
  rw [hsame]
  cases s.bstate with
  | bIdle => rfl
  | bWait => exact evaluate_withHost w ms s.countDown
  | bSettle => rfl

theorem startFrame_withHost (w : HostWord) (ms : List Move) (t : Transfer) (k : Nat) (s : State) :
    (s.withHost w ms).startFrame t k = (s.startFrame t k).withHost w ms := by
  rw [startFrame_eq, startFrame_eq]
  rfl

theorem endFramePins_withHost (w : HostWord) (ms : List Move) (s : State) :
    (s.withHost w ms).endFramePins = s.endFramePins.withHost w ms := by
  unfold State.endFramePins State.setImask State.edgeService
  rw [apply_ite (State.withHost w ms)]
  rfl

theorem afterFrame_withHost (w : HostWord) (ms : List Move) (t : Transfer) (k : Nat) (s : State) :
    (s.withHost w ms).afterFrame t k = (s.afterFrame t k).withHost w ms := by
  unfold State.afterFrame
  rw [apply_ite (State.withHost w ms)]
  cases t <;> rfl

theorem receiveFrame_withHost (w : HostWord) (ms : List Move) (s : State) :
    receiveFrame (s.withHost w ms) = andThen (receiveFrame s) (State.withHost w ms) := by
  cases hdec : decodeFrame s.cfg s.rx with
  | error e => rw [receiveFrame_of_no_kind hdec, receiveFrame_of_no_kind (s := s.withHost w ms) hdec]; rfl
  | ok i =>
    have hframe := decodeFrame_is_frame hdec
    rw [receiveFrame_of_decodes hdec, receiveFrame_of_decodes (s := s.withHost w ms) hdec]
    cases i with
    | frameDefer8Low | frameWrite16Low | frameDefer8High | frameWrite16High | frameCmdSrc | frameCmdCtrl => rfl
    | _ => cases hframe

theorem endFrame_withHost (w : HostWord) (ms : List Move) (t : Transfer) (k : Nat) (s : State) :
    endFrame t k (s.withHost w ms) = andThen (endFrame t k s) (State.withHost w ms) := by
  obtain ⟨st, fr, d, hreceive⟩ := receiveFrame_next s.endFramePins
  rw [endFrame, endFrame, endFramePins_withHost, receiveFrame_withHost, hreceive]
  exact congrArg _ (afterFrame_withHost w ms t k _)

theorem sendStep_withHost (w : HostWord) (ms : List Move) (t : Transfer) (p : Phase) (s : State) :
    sendStep t p (s.withHost w ms) = andThen (sendStep t p s) (State.withHost w ms) := by
  cases p with
  | gap k => exact congrArg _ (startFrame_withHost w ms t k s)
  | data k i | clkLow k | clkHigh k => rfl
  | fEnd k => exact endFrame_withHost w ms t k s

theorem blockStep_withHost (w : HostWord) (ms : List Move) (s : State) :
    blockStep (s.withHost w ms) = andThen (blockStep s) (State.withHost w ms) := by
  have hsame : (s.withHost w ms).opstate = s.opstate := rfl
  unfold blockStep
  rw [hsame]
  cases s.opstate with
  | sending t p => exact sendStep_withHost w ms t p s
  | idle | classifying | relaying => rfl

/-- The operation in progress goes on the same, whatever the operation registers and the moves to come are, and it
leaves them. -/
theorem progress_withHost (w : HostWord) (ms : List Move) (s : State) :
    progress (s.withHost w ms) = andThen (progress s) (State.withHost w ms) := by
  have hsame : (s.withHost w ms).opstate = s.opstate := rfl
  unfold progress
  rw [hsame]
  cases s.opstate with
  | idle => rfl
  | classifying => exact congrArg _ (timerStep_withHost w ms s)
  | sending | relaying => exact blockStep_withHost w ms s

/-- The operation in progress leaves the moves to come and the operation registers. -/
theorem progress_keeps_host {s t : State} (h : progress s = .next t) :
    t.agenda = s.agenda ∧ t.hostWord = s.hostWord := by
  have hown := progress_withHost s.hostWord s.agenda s
  rw [withHost_own, h, andThen_next] at hown
  have hkept : t = t.withHost s.hostWord s.agenda := Host.Outcome.next.inj hown
  rw [hkept]
  exact ⟨rfl, rfl⟩

/-! ### The hold -/

/-- Busy, with a host operation as the next move, the step is that of the operation in progress (R206). -/
theorem step_of_held_host {s : State} {w : HostWord} {rest : List Move} (hcfg : configOk s.cfg = true)
    (hbusy : s.opstate ≠ .idle) (hagenda : s.agenda = .host w :: rest) : step s = progress s := by
  cases hop : s.opstate with
  | idle => exact absurd hop hbusy
  | classifying | sending | relaying => simp [step, guarded, nextMove, takeMove, hcfg, hagenda, hop]

theorem step_of_no_moves {s : State} (hcfg : configOk s.cfg = true) (hagenda : s.agenda = []) :
    step s = progress s := by
  simp [step, guarded, nextMove, hcfg, hagenda]

/-- Settles O11: the held step is that of the operation in progress, which neither sees nor reaches the moves to come
and the operation registers. -/
theorem busyHostIsHeld : Obligations.BusyHostIsHeld := by
  intro s w rest hcfg hbusy hagenda
  obtain ⟨t, hprogress⟩ := progress_next s
  obtain ⟨hmoves, hword⟩ := progress_keeps_host hprogress
  refine ⟨t, (step_of_held_host hcfg hbusy hagenda).trans hprogress, hmoves, congrArg HostWord.op hword,
    congrArg HostWord.opa hword, congrArg HostWord.opb hword, ?_⟩
  calc step { s with agenda := [] }
    _ = progress (s.withHost s.hostWord []) := step_of_no_moves hcfg rfl
    _ = .next (t.withHost s.hostWord []) := by rw [progress_withHost, hprogress, andThen_next]
    _ = .next { t with agenda := [] } := by rw [← hword]; rfl

end Sys2Proof.Machine
end

section
/-! SUPPORT. The family of spec/70_reset_and_hazards.md: a reset at any moment (R220, R222), and the state in which a run
has ended and the machine waits (R234). -/

namespace Sys2Proof.Machine

/-! ### A reset -/

/-- A reset builds the reset state; nothing of the operation in progress is left in it (R222). -/
theorem resetNow_withAgenda (s : State) (ms : List Move) :
    (s.withAgenda ms).resetNow = State.resetOf s.cfg s.encA s.encB s.btnN s.draws ms := rfl

theorem step_of_reset {s : State} {rest : List Move} (hcfg : configOk s.cfg = true)
    (hagenda : s.agenda = .reset :: rest) : step s = .next (s.withAgenda rest).resetNow := by
  simp [step, guarded, nextMove, takeMove, hcfg, hagenda]

/-- Settles O50: the reset's step does not ask whether the block is busy, and the free values are those of the state's
own draw. -/
theorem resetAbandonsTheOperation : Obligations.ResetAbandonsTheOperation := by
  intro s rest hcfg hagenda
  refine ⟨s.draws, ?_⟩
  calc step s
    _ = .next (s.withAgenda rest).resetNow := step_of_reset hcfg hagenda
    _ = .next (State.resetOf s.cfg s.encA s.encB s.btnN s.draws rest) :=
      congrArg _ (resetNow_withAgenda s rest)

/-! ### The end of a run -/

/-- R234's conditions, one by one. -/
theorem successfulEnd_iff (s : State) :
    successfulEnd s = true ↔ configOk s.cfg = true ∧ s.opstate = .idle ∧ s.bstate = .bIdle ∧ s.pend = false
      ∧ s.imask = false ∧ faultFree s = true ∧ refusalFree s = true ∧ ∀ m ∈ s.agenda, m.isOperation = false := by
  simp [successfulEnd, and_assoc]

theorem progress_of_idle {s : State} (hidle : s.opstate = .idle) : progress s = .next s := by
  simp [progress, hidle]

/-- Settles O60: of R234's conditions, that the configuration meets R8 lets the step be taken, and that the block is
idle leaves it nothing to do. -/
theorem successfulEndIsStable : Obligations.SuccessfulEndIsStable := by
  intro s hend hagenda
  obtain ⟨hcfg, hidle, -⟩ := (successfulEnd_iff s).mp hend
  calc step s
    _ = progress s := step_of_no_moves hcfg hagenda
    _ = .next s := progress_of_idle hidle

end Sys2Proof.Machine
end
